-- ==== Sys2Proof/Word.lean ====
section
/-! DEFINITION. The word types of the machine: bytes, addresses and the PPU's counters (spec/00_scope.md R5, R8). -/

namespace Sys2Proof

/-- A `u8`: what every register but PC and every memory cell holds (R8). Plain `+` and `-` on it are
the spec's `+8` and `-8`. -/
abbrev Byte := BitVec 8

/-- A `u16`: what PC holds and what addresses a memory cell (R8). Plain `+` on it is the spec's `+16`. -/
abbrev Addr := BitVec 16

/-- What each PPU counter holds: 9 bits (R35, R219). -/
abbrev Counter := BitVec 9

end Sys2Proof
end

