-- ==== Sys2Proof/Config.lean ====
section
/-! DEFINITION. The named parameters of spec/00_scope.md R6 with this hardware's values, and the free
values for the two that the spec leaves open. -/

namespace Sys2Proof.Config

/-- `HALT_OPCODE` (R6, R190; the spec's decision D2; assumption 7). -/
def haltOpcode : Byte := 0x00

/-- `RESET_VECTOR`, the address of the vector's low byte (R6, R250; decision D3; assumption 7). -/
def resetVector : Addr := 0xFFFC

/-- `SP_RESET` (R6, R38; decision D4; assumption 7). -/
def spReset : Byte := 0xFD

/-- `P_RESET` (R6, R38; decision D5; assumption 7). -/
def pReset : Byte := 0x34

/-- `PPUSTATUS_ADDR`, the one address whose read has the status side effect (R6, R52; decision D7;
assumption 7). -/
def ppuStatusAddr : Addr := 0x2002

/-- `PPUSTATUS_RESET` (R6, R38; decision D8; assumption 7). -/
def ppuStatusReset : Byte := 0x00

/-- `PRG_BASE`, where the program image is installed (R6, R245; decision D18; assumption 7). -/
def prgBase : Nat := 0x8000

/-- `TXS_UPDATES_FLAGS` (R6, R145; decision D19, conflict C4; assumption 7). -/
def txsUpdatesFlags : Bool := true

/-- `PPU_TICKS_PER_STEP`: PPU ticks after each CPU step in the reference schedule only (R6, R218). -/
def ppuTicksPerStep : Nat := 3

/-- What a memory cell that nothing has written reads as: the reference value of `INIT_MEM` (R6, R68,
decision D17). DESIGN CHOICE, unsafe: assumption 1. -/
def unwrittenByte : Byte := 0x00

/-- `STEP_BUDGET`, which the spec leaves OPEN (R6, R254, decision D16): a free value, so no proof can
use what it is (assumption 3). `State.reset` copies it into the state. -/
opaque stepBudget : Nat

/-- How many PPU ticks come after the `n`-th completed CPU step and before the next one; at 0, how many
come before the first. The spec leaves the order open (R216, decision D14): a free value (assumption 2). -/
opaque ticksAfterStep : Nat → Nat

end Sys2Proof.Config
end

