-- ==== Sys2Proof/Machine/State.lean ====
section
/-! DEFINITION. The machine's state (spec/10_state.md), the reasons a step stops, and the state after reset
(R38). -/

namespace Sys2Proof.Machine

/-- The memory `M` (spec/20_memory.md R50): its cells as (address, byte) pairs, addresses strictly rising and
below 65536, no entry equal to what an unlisted address reads as (`Memory.wf`). -/
abbrev Memory := List Host.Cell

/-- The run state (R34). Only `running` admits a CPU step or a PPU tick; the others are final. -/
inductive RunState where
  | running
  | halted (addr : Addr)                       -- the halt opcode was fetched at `addr` (R190)
  | unsupported (op : Byte) (addr : Addr)      -- the opcode `op` fetched at `addr` is not admitted (R191)
  | budgetExhausted                            -- the driving loop's step budget is used up (R254)
  deriving DecidableEq, Repr

/-- Everything the spec gives the CORE (INVENTORY.md, State). -/
structure State where
  a : Byte                -- A, accumulator (R21)
  x : Byte                -- X, index register (R22)
  y : Byte                -- Y, index register (R23)
  sp : Byte               -- SP, stack pointer (R24)
  p : Byte                -- P, status byte (R26)
  pc : Addr               -- PC, address of the next opcode byte (R25)
  mem : Memory            -- M (R50)
  ppuStatus : Byte        -- PPUSTATUS (R35, R36); bit 7 is VBL
  cycle : Counter         -- PPU.cycle, 9 bits (R35, R211, R219)
  scanline : Counter      -- PPU.scanline, 9 bits (R35, R212, R219)
  runState : RunState     -- R34
  steps : Nat             -- completed CPU steps since reset (R34, R254)
  stepBudget : Nat        -- STEP_BUDGET, a parameter of the run (R6, R254)
  ticksDue : Nat          -- the model's own: PPU ticks that come before the next CPU step (R216, assumption 2)
  deriving DecidableEq, Repr

/-- Why a step has no next state. Each is raised by `stepWith` alone, in a state whose run state is already
final: the spec enables no step and no tick there (R34, R201, R205). Safe: the machine is stuck, as the spec
says (assumption 5). -/
inductive Fault where
  /-- The run ended at the halt opcode at `addr` (R190). Raised by `stepWith`; safe. -/
  | halted (addr : Addr)
  /-- The run ended at the unsupported opcode `op` at `addr` (R191). Raised by `stepWith`; safe. -/
  | unsupportedOpcode (op : Byte) (addr : Addr)
  /-- The run ended by the step budget (R254). Raised by `stepWith`; safe. -/
  | budgetExhausted
  deriving DecidableEq, Repr

/-- Why the model gives an instruction no meaning. -/
inductive Refusal where
  /-- An arm of `exec` that has no meaning yet. No arm raises it now; it would be safe. -/
  | notModelled (mnemonic : String)
  deriving DecidableEq, Repr

/-- What a step or a meaning answers. -/
abbrev Result := Host.Outcome State Fault Refusal

/-- The machine right after reset (R38, R250, R251) with nothing loaded: PC is the vector's value over a memory
that lists nothing (assumptions 1, 4); `stepBudget` and `ticksDue` are free values (assumptions 2, 3). -/
def State.reset : State where
  a := 0x00
  x := 0x00
  y := 0x00
  sp := Config.spReset
  p := Config.pReset
  pc := Config.unwrittenByte ++ Config.unwrittenByte
  mem := []
  ppuStatus := Config.ppuStatusReset
  cycle := 0
  scanline := 0
  runState := .running
  steps := 0
  stepBudget := Config.stepBudget
  ticksDue := Config.ticksAfterStep 0

end Sys2Proof.Machine
end

