-- ==== Sys2Proof/Machine/Flags.lean ====
section
/-! DEFINITION. The status byte P: its bits (spec/10_state.md R26) and the one flag computation of this
hardware, `UpdateNZ` (R29). -/

namespace Sys2Proof.Machine

/-- The bits of P by name (R26); `unused` is bit 5. -/
inductive Flag where
  | negative | overflow | unused | brk | decimal | interruptDisable | zero | carry
  deriving DecidableEq, Repr

/-- The bit number of a flag (R26). -/
def Flag.bit : Flag → Nat
  | .negative => 7
  | .overflow => 6
  | .unused => 5
  | .brk => 4
  | .decimal => 3
  | .interruptDisable => 2
  | .zero => 1
  | .carry => 0

/-- A flag of a status byte: `P.N`, `P.Z`, `P.C`, `P.V` (R8). -/
def flagOf (p : Byte) (f : Flag) : Bool := p.getLsbD f.bit

/-- The status byte with one flag written and every other bit kept. -/
def setFlag (p : Byte) (f : Flag) (value : Bool) : Byte :=
  if value then p ||| (1#8 <<< f.bit) else p &&& ~~~(1#8 <<< f.bit)

/-- `UpdateNZ(v)` (R29): Z is set iff `v` is zero, N is bit 7 of `v`, no other bit changes. -/
def updateNZ (v p : Byte) : Byte :=
  setFlag (setFlag p .zero (v == 0)) .negative (v.getLsbD 7)

end Sys2Proof.Machine
end

