-- ==== Sys2Proof/Syntax.lean ====
section
/-! DEFINITION. What an instruction is: the 27 mnemonics and 9 addressing modes of spec/30_encoding.md, and
one constructor of `Instr` per row of spec/opcode_table.json. -/

namespace Sys2Proof

/-- The mnemonics of spec/30_encoding.md R93. -/
inductive Mnemonic where
  | lda | ldx | ldy | sta | stx | sty
  | tax | tay | txa | tya | tsx | txs
  | inc | inx | iny | dec | dex | dey
  | bpl | bmi | bvc | bvs | bcc | bcs | bne | beq
  | hlt
  deriving DecidableEq, Repr

/-- The addressing modes of spec/30_encoding.md R82. -/
inductive Mode where
  | implied | immediate
  | zeroPage | zeroPageX | zeroPageY
  | absolute | absoluteX | absoluteY
  | relative
  deriving DecidableEq, Repr

/-- One constructor per admitted opcode (R93). `b1` is the one operand byte of a two-byte form; `addr` is the
16-bit operand `b2 ++ b1` of a three-byte form (R82, R88). -/
inductive Instr where
  | ldaImm (b1 : Byte)      -- 0xA9 LDA #$nn
  | ldaZp (b1 : Byte)       -- 0xA5 LDA $nn
  | ldaZpX (b1 : Byte)      -- 0xB5 LDA $nn,X
  | ldaAbs (addr : Addr)    -- 0xAD LDA $hhll
  | ldaAbsX (addr : Addr)   -- 0xBD LDA $hhll,X
  | ldaAbsY (addr : Addr)   -- 0xB9 LDA $hhll,Y
  | ldxImm (b1 : Byte)      -- 0xA2 LDX #$nn
  | ldxZp (b1 : Byte)       -- 0xA6 LDX $nn
  | ldxZpY (b1 : Byte)      -- 0xB6 LDX $nn,Y
  | ldxAbs (addr : Addr)    -- 0xAE LDX $hhll
  | ldxAbsY (addr : Addr)   -- 0xBE LDX $hhll,Y
  | ldyImm (b1 : Byte)      -- 0xA0 LDY #$nn
  | ldyZp (b1 : Byte)       -- 0xA4 LDY $nn
  | ldyZpX (b1 : Byte)      -- 0xB4 LDY $nn,X
  | ldyAbs (addr : Addr)    -- 0xAC LDY $hhll
  | ldyAbsX (addr : Addr)   -- 0xBC LDY $hhll,X
  | staZp (b1 : Byte)       -- 0x85 STA $nn
  | staZpX (b1 : Byte)      -- 0x95 STA $nn,X
  | staAbs (addr : Addr)    -- 0x8D STA $hhll
  | staAbsX (addr : Addr)   -- 0x9D STA $hhll,X
  | staAbsY (addr : Addr)   -- 0x99 STA $hhll,Y
  | stxZp (b1 : Byte)       -- 0x86 STX $nn
  | stxZpY (b1 : Byte)      -- 0x96 STX $nn,Y
  | stxAbs (addr : Addr)    -- 0x8E STX $hhll
  | styZp (b1 : Byte)       -- 0x84 STY $nn
  | styZpX (b1 : Byte)      -- 0x94 STY $nn,X
  | styAbs (addr : Addr)    -- 0x8C STY $hhll
  | tax                     -- 0xAA TAX
  | tay                     -- 0xA8 TAY
  | txa                     -- 0x8A TXA
  | tya                     -- 0x98 TYA
  | tsx                     -- 0xBA TSX
  | txs                     -- 0x9A TXS
  | incZp (b1 : Byte)       -- 0xE6 INC $nn
  | incZpX (b1 : Byte)      -- 0xF6 INC $nn,X
  | incAbs (addr : Addr)    -- 0xEE INC $hhll
  | incAbsX (addr : Addr)   -- 0xFE INC $hhll,X
  | inx                     -- 0xE8 INX
  | iny                     -- 0xC8 INY
  | decZp (b1 : Byte)       -- 0xC6 DEC $nn
  | decZpX (b1 : Byte)      -- 0xD6 DEC $nn,X
  | decAbs (addr : Addr)    -- 0xCE DEC $hhll
  | decAbsX (addr : Addr)   -- 0xDE DEC $hhll,X
  | dex                     -- 0xCA DEX
  | dey                     -- 0x88 DEY
  | bpl (b1 : Byte)         -- 0x10 BPL label
  | bmi (b1 : Byte)         -- 0x30 BMI label
  | bvc (b1 : Byte)         -- 0x50 BVC label
  | bvs (b1 : Byte)         -- 0x70 BVS label
  | bcc (b1 : Byte)         -- 0x90 BCC label
  | bcs (b1 : Byte)         -- 0xB0 BCS label
  | bne (b1 : Byte)         -- 0xD0 BNE label
  | beq (b1 : Byte)         -- 0xF0 BEQ label
  | hlt                     -- 0x00 HLT
  deriving DecidableEq, Repr

end Sys2Proof
end

