-- ==== Sys2Proof/WellFormed.lean ====
section
/-! DEFINITION. Which written instructions are well formed (spec/30_encoding.md R82, R93, R96). Every term of
`Instr` is well formed by its type (its operand fields are whole bytes and addresses, R82); the checks are about
an instruction as a programmer writes it: a mnemonic, a mode and an operand. -/

namespace Sys2Proof

/-- An instruction as written in assembler form (R96): its operand is a number still to be fitted into the
mode's operand bytes. A branch is written with its displacement byte; `branchReaches` checks a label. -/
structure Written where
  mnemonic : Mnemonic
  mode     : Mode
  operand  : Nat
  deriving DecidableEq, Repr

/-- The modes each mnemonic is admitted in: the "Operands" line of rules R120 to R190. -/
def admittedModes : Mnemonic → List Mode
  | .lda => [.immediate, .zeroPage, .zeroPageX, .absolute, .absoluteX, .absoluteY]
  | .ldx => [.immediate, .zeroPage, .zeroPageY, .absolute, .absoluteY]
  | .ldy => [.immediate, .zeroPage, .zeroPageX, .absolute, .absoluteX]
  | .sta => [.zeroPage, .zeroPageX, .absolute, .absoluteX, .absoluteY]
  | .stx => [.zeroPage, .zeroPageY, .absolute]
  | .sty => [.zeroPage, .zeroPageX, .absolute]
  | .tax | .tay | .txa | .tya | .tsx | .txs => [.implied]
  | .inc => [.zeroPage, .zeroPageX, .absolute, .absoluteX]
  | .dec => [.zeroPage, .zeroPageX, .absolute, .absoluteX]
  | .inx | .iny | .dex | .dey => [.implied]
  | .bpl | .bmi | .bvc | .bvs | .bcc | .bcs | .bne | .beq => [.relative]
  | .hlt => [.implied]

/-- One more than the largest operand a mode can hold: its operand is 0, 1 or 2 bytes (R82). -/
def Mode.operandBound : Mode → Nat
  | .implied => 1
  | .immediate | .zeroPage | .zeroPageX | .zeroPageY | .relative => 256
  | .absolute | .absoluteX | .absoluteY => 65536

/-- The mnemonic exists in that mode (R93). -/
def Written.formAdmitted (w : Written) : Bool := w.mode ∈ admittedModes w.mnemonic

/-- The operand fits the mode's operand bytes (R82). -/
def Written.operandFits (w : Written) : Bool := w.operand < w.mode.operandBound

/-- Both checks on a written instruction. -/
def Written.wellFormed (w : Written) : Bool := w.formAdmitted && w.operandFits

/-- The check on a branch label (R96): the displacement from the instruction after the branch at `pc` to
`label`, modulo 65536, lies in −128..127. -/
def branchReaches (pc label : Addr) : Bool :=
  -128 ≤ (label - (pc + 2)).toInt && (label - (pc + 2)).toInt ≤ 127

end Sys2Proof
end

