-- ==== Sys2Proof/Decode.lean ====
section
/-! DEFINITION. The opcode table (spec/30_encoding.md R93), the decoder, total on any bytes (R80 to R83, R92),
and the encoder. -/

namespace Sys2Proof

/-- `hi ++ lo` (R8): the 16-bit value of two bytes, the high one first. -/
def joinBytes (hi lo : Byte) : Addr := hi ++ lo

/-- Bits 7:0 of an address: its first operand byte (R88). -/
def lowByte (a : Addr) : Byte := a.extractLsb' 0 8

/-- Bits 15:8 of an address: its second operand byte (R88). -/
def highByte (a : Addr) : Byte := a.extractLsb' 8 8

/-- The number of operand bytes after the opcode byte (R82). -/
def Mode.operandCount : Mode → Nat
  | .implied => 0
  | .immediate | .zeroPage | .zeroPageX | .zeroPageY | .relative => 1
  | .absolute | .absoluteX | .absoluteY => 2

/-- The length of an instruction in bytes, a function of its mode (R81, R82). -/
def Mode.length (m : Mode) : Nat := m.operandCount + 1

/-- A row of the opcode table: the opcode byte, what it selects, and the instruction its operand bytes
make (`build b1 b2`; a mode with fewer operand bytes ignores the rest). -/
structure Row where
  opcode   : Byte
  mnemonic : Mnemonic
  mode     : Mode
  build    : Byte → Byte → Instr

/-- Loads of the opcode table (R93; R120 to R122). -/
def loadRows : List Row :=
  [ ⟨0xA9, .lda, .immediate, fun b1 _ => .ldaImm b1⟩,
    ⟨0xA5, .lda, .zeroPage, fun b1 _ => .ldaZp b1⟩,
    ⟨0xB5, .lda, .zeroPageX, fun b1 _ => .ldaZpX b1⟩,
    ⟨0xAD, .lda, .absolute, fun b1 b2 => .ldaAbs (joinBytes b2 b1)⟩,
    ⟨0xBD, .lda, .absoluteX, fun b1 b2 => .ldaAbsX (joinBytes b2 b1)⟩,
    ⟨0xB9, .lda, .absoluteY, fun b1 b2 => .ldaAbsY (joinBytes b2 b1)⟩,
    ⟨0xA2, .ldx, .immediate, fun b1 _ => .ldxImm b1⟩,
    ⟨0xA6, .ldx, .zeroPage, fun b1 _ => .ldxZp b1⟩,
    ⟨0xB6, .ldx, .zeroPageY, fun b1 _ => .ldxZpY b1⟩,
    ⟨0xAE, .ldx, .absolute, fun b1 b2 => .ldxAbs (joinBytes b2 b1)⟩,
    ⟨0xBE, .ldx, .absoluteY, fun b1 b2 => .ldxAbsY (joinBytes b2 b1)⟩,
    ⟨0xA0, .ldy, .immediate, fun b1 _ => .ldyImm b1⟩,
    ⟨0xA4, .ldy, .zeroPage, fun b1 _ => .ldyZp b1⟩,
    ⟨0xB4, .ldy, .zeroPageX, fun b1 _ => .ldyZpX b1⟩,
    ⟨0xAC, .ldy, .absolute, fun b1 b2 => .ldyAbs (joinBytes b2 b1)⟩,
    ⟨0xBC, .ldy, .absoluteX, fun b1 b2 => .ldyAbsX (joinBytes b2 b1)⟩ ]

/-- Stores of the opcode table (R93; R130 to R132). -/
def storeRows : List Row :=
  [ ⟨0x85, .sta, .zeroPage, fun b1 _ => .staZp b1⟩,
    ⟨0x95, .sta, .zeroPageX, fun b1 _ => .staZpX b1⟩,
    ⟨0x8D, .sta, .absolute, fun b1 b2 => .staAbs (joinBytes b2 b1)⟩,
    ⟨0x9D, .sta, .absoluteX, fun b1 b2 => .staAbsX (joinBytes b2 b1)⟩,
    ⟨0x99, .sta, .absoluteY, fun b1 b2 => .staAbsY (joinBytes b2 b1)⟩,
    ⟨0x86, .stx, .zeroPage, fun b1 _ => .stxZp b1⟩,
    ⟨0x96, .stx, .zeroPageY, fun b1 _ => .stxZpY b1⟩,
    ⟨0x8E, .stx, .absolute, fun b1 b2 => .stxAbs (joinBytes b2 b1)⟩,
    ⟨0x84, .sty, .zeroPage, fun b1 _ => .styZp b1⟩,
    ⟨0x94, .sty, .zeroPageX, fun b1 _ => .styZpX b1⟩,
    ⟨0x8C, .sty, .absolute, fun b1 b2 => .styAbs (joinBytes b2 b1)⟩ ]

/-- Transfers of the opcode table (R93; R140 to R145). -/
def transferRows : List Row :=
  [ ⟨0xAA, .tax, .implied, fun _ _ => .tax⟩,
    ⟨0xA8, .tay, .implied, fun _ _ => .tay⟩,
    ⟨0x8A, .txa, .implied, fun _ _ => .txa⟩,
    ⟨0x98, .tya, .implied, fun _ _ => .tya⟩,
    ⟨0xBA, .tsx, .implied, fun _ _ => .tsx⟩,
    ⟨0x9A, .txs, .implied, fun _ _ => .txs⟩ ]

/-- Increments and decrements of the opcode table (R93; R150 to R152, R160 to R162). -/
def countRows : List Row :=
  [ ⟨0xE6, .inc, .zeroPage, fun b1 _ => .incZp b1⟩,
    ⟨0xF6, .inc, .zeroPageX, fun b1 _ => .incZpX b1⟩,
    ⟨0xEE, .inc, .absolute, fun b1 b2 => .incAbs (joinBytes b2 b1)⟩,
    ⟨0xFE, .inc, .absoluteX, fun b1 b2 => .incAbsX (joinBytes b2 b1)⟩,
    ⟨0xE8, .inx, .implied, fun _ _ => .inx⟩,
    ⟨0xC8, .iny, .implied, fun _ _ => .iny⟩,
    ⟨0xC6, .dec, .zeroPage, fun b1 _ => .decZp b1⟩,
    ⟨0xD6, .dec, .zeroPageX, fun b1 _ => .decZpX b1⟩,
    ⟨0xCE, .dec, .absolute, fun b1 b2 => .decAbs (joinBytes b2 b1)⟩,
    ⟨0xDE, .dec, .absoluteX, fun b1 b2 => .decAbsX (joinBytes b2 b1)⟩,
    ⟨0xCA, .dex, .implied, fun _ _ => .dex⟩,
    ⟨0x88, .dey, .implied, fun _ _ => .dey⟩ ]

/-- Branches of the opcode table (R93; R171 to R178). -/
def branchRows : List Row :=
  [ ⟨0x10, .bpl, .relative, fun b1 _ => .bpl b1⟩,
    ⟨0x30, .bmi, .relative, fun b1 _ => .bmi b1⟩,
    ⟨0x50, .bvc, .relative, fun b1 _ => .bvc b1⟩,
    ⟨0x70, .bvs, .relative, fun b1 _ => .bvs b1⟩,
    ⟨0x90, .bcc, .relative, fun b1 _ => .bcc b1⟩,
    ⟨0xB0, .bcs, .relative, fun b1 _ => .bcs b1⟩,
    ⟨0xD0, .bne, .relative, fun b1 _ => .bne b1⟩,
    ⟨0xF0, .beq, .relative, fun b1 _ => .beq b1⟩ ]

/-- Halt of the opcode table (R93; R190). -/
def haltRows : List Row :=
  [ ⟨Config.haltOpcode, .hlt, .implied, fun _ _ => .hlt⟩ ]

/-- The 54 admitted opcodes (R93); every other byte is unsupported (R94). -/
def opcodeTable : List Row :=
  loadRows ++ storeRows ++ transferRows ++ countRows ++ branchRows ++ haltRows

/-- Decode (R92): a total function of the opcode byte alone; `none` is `Unsupported`. -/
def decodeOpcode (op : Byte) : Option Row := opcodeTable.find? (fun r => r.opcode == op)

/-- Why a list of bytes is no instruction. -/
inductive DecodeError where
  | noBytes                          -- there is no opcode byte
  | unsupportedOpcode (op : Byte)    -- the opcode byte is not admitted (R94)
  | truncated (op : Byte)            -- operand bytes are missing (R82)
  deriving DecidableEq, Repr

/-- The decoder on bytes (R80 to R83): the instruction the list begins with, and the bytes after it. -/
def decode : List Byte → Except DecodeError (Instr × List Byte)
  | [] => .error .noBytes
  | op :: rest =>
    match decodeOpcode op with
    | none => .error (.unsupportedOpcode op)
    | some row =>
      match row.mode.operandCount, rest with
      | 0, rest => .ok (row.build 0 0, rest)
      | 1, b1 :: rest => .ok (row.build b1 0, rest)
      | 2, b1 :: b2 :: rest => .ok (row.build b1 b2, rest)
      | _, _ => .error (.truncated op)

/-- The mnemonic and mode of an instruction (R93). -/
def Instr.form : Instr → Mnemonic × Mode
  | .ldaImm _ => (.lda, .immediate)
  | .ldaZp _ => (.lda, .zeroPage)
  | .ldaZpX _ => (.lda, .zeroPageX)
  | .ldaAbs _ => (.lda, .absolute)
  | .ldaAbsX _ => (.lda, .absoluteX)
  | .ldaAbsY _ => (.lda, .absoluteY)
  | .ldxImm _ => (.ldx, .immediate)
  | .ldxZp _ => (.ldx, .zeroPage)
  | .ldxZpY _ => (.ldx, .zeroPageY)
  | .ldxAbs _ => (.ldx, .absolute)
  | .ldxAbsY _ => (.ldx, .absoluteY)
  | .ldyImm _ => (.ldy, .immediate)
  | .ldyZp _ => (.ldy, .zeroPage)
  | .ldyZpX _ => (.ldy, .zeroPageX)
  | .ldyAbs _ => (.ldy, .absolute)
  | .ldyAbsX _ => (.ldy, .absoluteX)
  | .staZp _ => (.sta, .zeroPage)
  | .staZpX _ => (.sta, .zeroPageX)
  | .staAbs _ => (.sta, .absolute)
  | .staAbsX _ => (.sta, .absoluteX)
  | .staAbsY _ => (.sta, .absoluteY)
  | .stxZp _ => (.stx, .zeroPage)
  | .stxZpY _ => (.stx, .zeroPageY)
  | .stxAbs _ => (.stx, .absolute)
  | .styZp _ => (.sty, .zeroPage)
  | .styZpX _ => (.sty, .zeroPageX)
  | .styAbs _ => (.sty, .absolute)
  | .tax => (.tax, .implied)
  | .tay => (.tay, .implied)
  | .txa => (.txa, .implied)
  | .tya => (.tya, .implied)
  | .tsx => (.tsx, .implied)
  | .txs => (.txs, .implied)
  | .incZp _ => (.inc, .zeroPage)
  | .incZpX _ => (.inc, .zeroPageX)
  | .incAbs _ => (.inc, .absolute)
  | .incAbsX _ => (.inc, .absoluteX)
  | .inx => (.inx, .implied)
  | .iny => (.iny, .implied)
  | .decZp _ => (.dec, .zeroPage)
  | .decZpX _ => (.dec, .zeroPageX)
  | .decAbs _ => (.dec, .absolute)
  | .decAbsX _ => (.dec, .absoluteX)
  | .dex => (.dex, .implied)
  | .dey => (.dey, .implied)
  | .bpl _ => (.bpl, .relative)
  | .bmi _ => (.bmi, .relative)
  | .bvc _ => (.bvc, .relative)
  | .bvs _ => (.bvs, .relative)
  | .bcc _ => (.bcc, .relative)
  | .bcs _ => (.bcs, .relative)
  | .bne _ => (.bne, .relative)
  | .beq _ => (.beq, .relative)
  | .hlt => (.hlt, .implied)

/-- The mnemonic of an instruction. -/
def Instr.mnemonic (i : Instr) : Mnemonic := i.form.1

/-- The addressing mode of an instruction. -/
def Instr.mode (i : Instr) : Mode := i.form.2

/-- The length of an instruction in bytes (R81, R82). -/
def Instr.length (i : Instr) : Nat := i.mode.length

/-- The opcode byte of an instruction (the list of R93). -/
def Instr.opcode : Instr → Byte
  | .ldaImm _ => 0xA9
  | .ldaZp _ => 0xA5
  | .ldaZpX _ => 0xB5
  | .ldaAbs _ => 0xAD
  | .ldaAbsX _ => 0xBD
  | .ldaAbsY _ => 0xB9
  | .ldxImm _ => 0xA2
  | .ldxZp _ => 0xA6
  | .ldxZpY _ => 0xB6
  | .ldxAbs _ => 0xAE
  | .ldxAbsY _ => 0xBE
  | .ldyImm _ => 0xA0
  | .ldyZp _ => 0xA4
  | .ldyZpX _ => 0xB4
  | .ldyAbs _ => 0xAC
  | .ldyAbsX _ => 0xBC
  | .staZp _ => 0x85
  | .staZpX _ => 0x95
  | .staAbs _ => 0x8D
  | .staAbsX _ => 0x9D
  | .staAbsY _ => 0x99
  | .stxZp _ => 0x86
  | .stxZpY _ => 0x96
  | .stxAbs _ => 0x8E
  | .styZp _ => 0x84
  | .styZpX _ => 0x94
  | .styAbs _ => 0x8C
  | .tax => 0xAA
  | .tay => 0xA8
  | .txa => 0x8A
  | .tya => 0x98
  | .tsx => 0xBA
  | .txs => 0x9A
  | .incZp _ => 0xE6
  | .incZpX _ => 0xF6
  | .incAbs _ => 0xEE
  | .incAbsX _ => 0xFE
  | .inx => 0xE8
  | .iny => 0xC8
  | .decZp _ => 0xC6
  | .decZpX _ => 0xD6
  | .decAbs _ => 0xCE
  | .decAbsX _ => 0xDE
  | .dex => 0xCA
  | .dey => 0x88
  | .bpl _ => 0x10
  | .bmi _ => 0x30
  | .bvc _ => 0x50
  | .bvs _ => 0x70
  | .bcc _ => 0x90
  | .bcs _ => 0xB0
  | .bne _ => 0xD0
  | .beq _ => 0xF0
  | .hlt => Config.haltOpcode

/-- The operand bytes of an instruction, low byte first (R82, R88). -/
def Instr.operandBytes : Instr → List Byte
  | .ldaImm b1 => [b1]
  | .ldaZp b1 => [b1]
  | .ldaZpX b1 => [b1]
  | .ldaAbs addr => [lowByte addr, highByte addr]
  | .ldaAbsX addr => [lowByte addr, highByte addr]
  | .ldaAbsY addr => [lowByte addr, highByte addr]
  | .ldxImm b1 => [b1]
  | .ldxZp b1 => [b1]
  | .ldxZpY b1 => [b1]
  | .ldxAbs addr => [lowByte addr, highByte addr]
  | .ldxAbsY addr => [lowByte addr, highByte addr]
  | .ldyImm b1 => [b1]
  | .ldyZp b1 => [b1]
  | .ldyZpX b1 => [b1]
  | .ldyAbs addr => [lowByte addr, highByte addr]
  | .ldyAbsX addr => [lowByte addr, highByte addr]
  | .staZp b1 => [b1]
  | .staZpX b1 => [b1]
  | .staAbs addr => [lowByte addr, highByte addr]
  | .staAbsX addr => [lowByte addr, highByte addr]
  | .staAbsY addr => [lowByte addr, highByte addr]
  | .stxZp b1 => [b1]
  | .stxZpY b1 => [b1]
  | .stxAbs addr => [lowByte addr, highByte addr]
  | .styZp b1 => [b1]
  | .styZpX b1 => [b1]
  | .styAbs addr => [lowByte addr, highByte addr]
  | .tax => []
  | .tay => []
  | .txa => []
  | .tya => []
  | .tsx => []
  | .txs => []
  | .incZp b1 => [b1]
  | .incZpX b1 => [b1]
  | .incAbs addr => [lowByte addr, highByte addr]
  | .incAbsX addr => [lowByte addr, highByte addr]
  | .inx => []
  | .iny => []
  | .decZp b1 => [b1]
  | .decZpX b1 => [b1]
  | .decAbs addr => [lowByte addr, highByte addr]
  | .decAbsX addr => [lowByte addr, highByte addr]
  | .dex => []
  | .dey => []
  | .bpl b1 => [b1]
  | .bmi b1 => [b1]
  | .bvc b1 => [b1]
  | .bvs b1 => [b1]
  | .bcc b1 => [b1]
  | .bcs b1 => [b1]
  | .bne b1 => [b1]
  | .beq b1 => [b1]
  | .hlt => []

/-- The encoder: the bytes of an instruction, the opcode byte first (R80, R82). -/
def encode (i : Instr) : List Byte := i.opcode :: i.operandBytes

/-- An instruction as written (R96): its operand bytes read as one little-endian number (R55). -/
def Instr.written (i : Instr) : Written :=
  ⟨i.mnemonic, i.mode, i.operandBytes.foldr (fun b n => b.toNat + 256 * n) 0⟩

/-- An instruction is well formed when its written form passes the checks. Every instruction does
(`Laws.Encoded`), so no statement needs it as a hypothesis. -/
def Instr.wellFormed (i : Instr) : Bool := i.written.wellFormed

/-- The instruction a written one stands for; `none` when it is not well formed. -/
def Written.toInstr (w : Written) : Option Instr :=
  if w.wellFormed then
    (opcodeTable.find? (fun r => r.mnemonic == w.mnemonic && r.mode == w.mode)).map
      (fun r => r.build (lowByte (BitVec.ofNat 16 w.operand)) (highByte (BitVec.ofNat 16 w.operand)))
  else none

/-- The displacement byte the assembler writes for a branch at `pc` to `label` (R96); `none` when the label is
out of reach. -/
def assembleBranch (pc label : Addr) : Option Byte :=
  if branchReaches pc label then some (lowByte (label - (pc + 2))) else none

/-- The instruction the decoder reads from a table word: bit 0 of `w` is the least significant bit of the opcode
byte, the operand bytes follow upwards, and every bit above `nbits` is 0. -/
def decodeTableWord (nbits w : Nat) : Option Instr :=
  let v := w % 2 ^ nbits
  match decode [BitVec.ofNat 8 v, BitVec.ofNat 8 (v / 256), BitVec.ofNat 8 (v / 65536)] with
  | .ok (i, _) => some i
  | .error _ => none

end Sys2Proof
end

