-- ==== Sys2Proof/Machine/Operands.lean ====
section
/-! DEFINITION. The addressing modes (spec/30_encoding.md R84 to R91): the effective address each forms from its
operand bytes and the index registers. Immediate (R84) has no effective address: its operand byte is the value. -/

namespace Sys2Proof.Machine

/-- `zext_16(v)` (R8). -/
def zext16 (v : Byte) : Addr := v.setWidth 16

/-- `sext_16(v)` (R8). -/
def sext16 (v : Byte) : Addr := v.signExtend 16

/-- Zero-page (R85). -/
def zeroPage (b1 : Byte) : Addr := zext16 b1

/-- Zero-page,X and zero-page,Y (R86, R87): the index is added modulo 256, so the address stays in the zero page. -/
def zeroPageIndexed (b1 index : Byte) : Addr := zext16 (b1 + index)

/-- Absolute,X and absolute,Y (R89, R90): the index is added modulo 65536. Absolute (R88) is the operand itself. -/
def absoluteIndexed (base : Addr) (index : Byte) : Addr := base + zext16 index

/-- Relative (R91): the target of a branch whose opcode is at `pc`. -/
def branchTarget (pc : Addr) (b1 : Byte) : Addr := (pc + 2) + sext16 b1

/-- The address of an instruction's data access, if it has one (R84 to R91). -/
def effectiveAddress (i : Instr) (s : State) : Option Addr :=
  match i with
  | .ldaImm _ => none
  | .ldaZp b1 => some (zeroPage b1)
  | .ldaZpX b1 => some (zeroPageIndexed b1 s.x)
  | .ldaAbs addr => some addr
  | .ldaAbsX addr => some (absoluteIndexed addr s.x)
  | .ldaAbsY addr => some (absoluteIndexed addr s.y)
  | .ldxImm _ => none
  | .ldxZp b1 => some (zeroPage b1)
  | .ldxZpY b1 => some (zeroPageIndexed b1 s.y)
  | .ldxAbs addr => some addr
  | .ldxAbsY addr => some (absoluteIndexed addr s.y)
  | .ldyImm _ => none
  | .ldyZp b1 => some (zeroPage b1)
  | .ldyZpX b1 => some (zeroPageIndexed b1 s.x)
  | .ldyAbs addr => some addr
  | .ldyAbsX addr => some (absoluteIndexed addr s.x)
  | .staZp b1 => some (zeroPage b1)
  | .staZpX b1 => some (zeroPageIndexed b1 s.x)
  | .staAbs addr => some addr
  | .staAbsX addr => some (absoluteIndexed addr s.x)
  | .staAbsY addr => some (absoluteIndexed addr s.y)
  | .stxZp b1 => some (zeroPage b1)
  | .stxZpY b1 => some (zeroPageIndexed b1 s.y)
  | .stxAbs addr => some addr
  | .styZp b1 => some (zeroPage b1)
  | .styZpX b1 => some (zeroPageIndexed b1 s.x)
  | .styAbs addr => some addr
  | .tax => none
  | .tay => none
  | .txa => none
  | .tya => none
  | .tsx => none
  | .txs => none
  | .incZp b1 => some (zeroPage b1)
  | .incZpX b1 => some (zeroPageIndexed b1 s.x)
  | .incAbs addr => some addr
  | .incAbsX addr => some (absoluteIndexed addr s.x)
  | .inx => none
  | .iny => none
  | .decZp b1 => some (zeroPage b1)
  | .decZpX b1 => some (zeroPageIndexed b1 s.x)
  | .decAbs addr => some addr
  | .decAbsX addr => some (absoluteIndexed addr s.x)
  | .dex => none
  | .dey => none
  | .bpl _ => none
  | .bmi _ => none
  | .bvc _ => none
  | .bvs _ => none
  | .bcc _ => none
  | .bcs _ => none
  | .bne _ => none
  | .beq _ => none
  | .hlt => none

/-- The instruction reads its effective address (R120 to R122, R150, R160). -/
def readsData (i : Instr) : Bool := i.mnemonic ∈ [.lda, .ldx, .ldy, .inc, .dec]

/-- The instruction writes its effective address (R130 to R132, R150, R160). -/
def writesData (i : Instr) : Bool := i.mnemonic ∈ [.sta, .stx, .sty, .inc, .dec]

/-- The address an instruction reads data from, if any; every instruction reads at most once (R111). -/
def loadAddress (i : Instr) (s : State) : Option Addr :=
  if readsData i then effectiveAddress i s else none

/-- The address an instruction stores its one byte to, if any (R111). -/
def storeAddress (i : Instr) (s : State) : Option Addr :=
  if writesData i then effectiveAddress i s else none

end Sys2Proof.Machine
end

