-- ==== Sys2Proof/Machine/Ops.lean ====
section
/-! DEFINITION. The named operations over memory and registers: the memory cells, the unified read accessor and
the write (spec/20_memory.md R52, R53, R56), register writes, the end of a completed instruction
(spec/40_step.md R110) and the end of a run (spec/60_exceptions.md R200, R204). -/

namespace Sys2Proof.Machine

/-! ### Memory cells -/

/-- The byte a list of cells holds at an address. -/
def Memory.lookup : Memory → Nat → Byte
  | [], _ => Config.unwrittenByte
  | (k, v) :: rest, n => if k = n then v else lookup rest n

/-- The cells without an address. -/
def Memory.erase (m : Memory) (n : Nat) : Memory := m.filter (fun c => c.1 != n)

/-- A cell put in its place by address. -/
def Memory.place : Memory → Nat → Byte → Memory
  | [], n, v => [(n, v)]
  | (k, w) :: rest, n, v => if n < k then (n, v) :: (k, w) :: rest else (k, w) :: place rest n v

/-- `M[a]` (R50). -/
def Memory.read (m : Memory) (a : Addr) : Byte := m.lookup a.toNat

/-- `M[a] <- v` (R50). Writing what an unlisted address reads as removes the entry, which keeps the canonical
form. -/
def Memory.write (m : Memory) (a : Addr) (v : Byte) : Memory :=
  if v = Config.unwrittenByte then m.erase a.toNat else (m.erase a.toNat).place a.toNat v

/-- The addresses rise strictly along the list. -/
def Memory.rising : Memory → Bool
  | [] => true
  | c :: rest => rest.all (fun d => c.1 < d.1) && rising rest

/-- The canonical form: addresses strictly rising and below 65536, no entry equal to what an unlisted address
reads as. -/
def Memory.wf (m : Memory) : Bool :=
  m.rising && m.all (fun c => c.1 < 65536 && c.2 != Config.unwrittenByte)

/-! ### The unified read accessor and the write -/

/-- PPUSTATUS after its bit 7 is cleared (R52). -/
def clearVbl (status : Byte) : Byte := status &&& 0x7F

/-- PPUSTATUS after its bit 7 is set (R213). -/
def setVbl (status : Byte) : Byte := status ||| 0x80

/-- The vertical-blank bit (R36). -/
def State.vbl (s : State) : Bool := s.ppuStatus.getLsbD 7

/-- The value a CPU read of `a` returns (R52): PPUSTATUS as it is at `PPUSTATUS_ADDR`, else the cell. -/
def State.peek (s : State) (a : Addr) : Byte :=
  if a = Config.ppuStatusAddr then s.ppuStatus else s.mem.read a

/-- The side effect of a CPU read of `a` (R52): a read of `PPUSTATUS_ADDR` clears bit 7 of PPUSTATUS. -/
def State.touch (s : State) (a : Addr) : State :=
  if a = Config.ppuStatusAddr then { s with ppuStatus := clearVbl s.ppuStatus } else s

/-- `MemRead(a, 1)` (R52): the value before the clear, and the state after it. The only way the CPU reads memory
(R54). -/
def State.memRead (s : State) (a : Addr) : Byte × State := (s.peek a, s.touch a)

/-- `MemRead(a, 2)` (R56): two byte reads, the lower address first, the second address modulo 65536. -/
def State.memRead16 (s : State) (a : Addr) : Addr × State :=
  let lo := s.memRead a
  let hi := lo.2.memRead (a + 1)
  (joinBytes hi.1 lo.1, hi.2)

/-- `MemWrite(a, 1, v)` (R53): the cell is written at every address; no device register changes. -/
def State.memWrite (s : State) (a : Addr) (v : Byte) : State := { s with mem := s.mem.write a v }

/-! ### Registers -/

/-- `A <- v`. -/
def State.setA (s : State) (v : Byte) : State := { s with a := v }

/-- `X <- v`. -/
def State.setX (s : State) (v : Byte) : State := { s with x := v }

/-- `Y <- v`. -/
def State.setY (s : State) (v : Byte) : State := { s with y := v }

/-- `SP <- v`. -/
def State.setSp (s : State) (v : Byte) : State := { s with sp := v }

/-- `UpdateNZ(v)` on the machine's P (R29). -/
def State.setNZ (s : State) (v : Byte) : State := { s with p := updateNZ v s.p }

/-! ### What the instruction families share -/

/-- A value into A with its flags: the common part of LDA, TXA and TYA. -/
def State.putA (s : State) (v : Byte) : State := (s.setA v).setNZ v

/-- A value into X with its flags: the common part of LDX, TAX, TSX, INX and DEX. -/
def State.putX (s : State) (v : Byte) : State := (s.setX v).setNZ v

/-- A value into Y with its flags: the common part of LDY, TAY, INY and DEY. -/
def State.putY (s : State) (v : Byte) : State := (s.setY v).setNZ v

/-- `A <- MemRead(ea, 1)` with its flags (R120). -/
def State.loadA (s : State) (ea : Addr) : State := (s.memRead ea).2.putA (s.memRead ea).1

/-- `X <- MemRead(ea, 1)` with its flags (R121). -/
def State.loadX (s : State) (ea : Addr) : State := (s.memRead ea).2.putX (s.memRead ea).1

/-- `Y <- MemRead(ea, 1)` with its flags (R122). -/
def State.loadY (s : State) (ea : Addr) : State := (s.memRead ea).2.putY (s.memRead ea).1

/-- One read of `ea`, one write of `f` of it to the same address, the flags of the result (R150, R160). -/
def State.modify (s : State) (f : Byte → Byte) (ea : Addr) : State :=
  let v := f (s.memRead ea).1
  ((s.memRead ea).2.memWrite ea v).setNZ v

/-- The step's own part of a completed instruction (R110): PC moves past its `len` bytes, `steps` counts it. -/
def State.retire (s : State) (len : Addr) : State := { s with pc := s.pc + len, steps := s.steps + 1 }

/-- A branch (R170): past its two bytes, then to its target if the condition holds. -/
def State.branchIf (s : State) (taken : Bool) (b1 : Byte) : State :=
  if taken then { s.retire 2 with pc := branchTarget s.pc b1 } else s.retire 2

/-! ### The end of a run -/

/-- The one operation every termination goes through (R200, R204): the run state becomes final and nothing else
changes; no state is saved, no vector is taken, and there is no return (R205). -/
def State.endRun (s : State) (final : RunState) : State := { s with runState := final }

end Sys2Proof.Machine
end

