-- ==== Sys2Proof/Machine/Branch.lean ====
section
/-! DEFINITION. The meanings of the branch instructions (spec/46_branch.md).
A meaning acts on the state after the operand bytes are fetched, with PC still at the opcode; it moves PC and counts
the step itself (R110, assumption 8). -/

namespace Sys2Proof.Machine

/-- `BPL label` (R171). -/
def execBpl (b1 : Byte) (s : State) : Result := .next (s.branchIf (!flagOf s.p .negative) b1)

/-- `BMI label` (R172). -/
def execBmi (b1 : Byte) (s : State) : Result := .next (s.branchIf (flagOf s.p .negative) b1)

/-- `BVC label` (R173). -/
def execBvc (b1 : Byte) (s : State) : Result := .next (s.branchIf (!flagOf s.p .overflow) b1)

/-- `BVS label` (R174). -/
def execBvs (b1 : Byte) (s : State) : Result := .next (s.branchIf (flagOf s.p .overflow) b1)

/-- `BCC label` (R175). -/
def execBcc (b1 : Byte) (s : State) : Result := .next (s.branchIf (!flagOf s.p .carry) b1)

/-- `BCS label` (R176). -/
def execBcs (b1 : Byte) (s : State) : Result := .next (s.branchIf (flagOf s.p .carry) b1)

/-- `BNE label` (R177). -/
def execBne (b1 : Byte) (s : State) : Result := .next (s.branchIf (!flagOf s.p .zero) b1)

/-- `BEQ label` (R178). -/
def execBeq (b1 : Byte) (s : State) : Result := .next (s.branchIf (flagOf s.p .zero) b1)

end Sys2Proof.Machine
end

