-- ==== Sys2Proof/Machine/Decrement.lean ====
section
/-! DEFINITION. The meanings of the decrement instructions (spec/45_decrement.md).
A meaning acts on the state after the operand bytes are fetched, with PC still at the opcode; it moves PC and counts
the step itself (R110, assumption 8). -/

namespace Sys2Proof.Machine

/-- `DEC $nn` (R160, R85). -/
def execDecZp (b1 : Byte) (s : State) : Result := .next ((s.retire 2).modify (fun v => v - 1) (zeroPage b1))

/-- `DEC $nn,X` (R160, R86). -/
def execDecZpX (b1 : Byte) (s : State) : Result := .next ((s.retire 2).modify (fun v => v - 1) (zeroPageIndexed b1 s.x))

/-- `DEC $hhll` (R160, R88). -/
def execDecAbs (addr : Addr) (s : State) : Result := .next ((s.retire 3).modify (fun v => v - 1) addr)

/-- `DEC $hhll,X` (R160, R89). -/
def execDecAbsX (addr : Addr) (s : State) : Result := .next ((s.retire 3).modify (fun v => v - 1) (absoluteIndexed addr s.x))

/-- `DEX` (R161). -/
def execDex (s : State) : Result := .next ((s.retire 1).putX (s.x - 1))

/-- `DEY` (R162). -/
def execDey (s : State) : Result := .next ((s.retire 1).putY (s.y - 1))

end Sys2Proof.Machine
end

