-- ==== Sys2Proof/Machine/Halt.lean ====
section
/-! DEFINITION. The meanings of the halt instruction (spec/47_halt.md).
A meaning acts on the state after the operand bytes are fetched, with PC still at the opcode; it moves PC and counts
the step itself (R110, assumption 8). -/

namespace Sys2Proof.Machine

/-- `HLT` (R190): the run ends at the opcode; PC and the step count stay. -/
def execHlt (s : State) : Result := .next (s.endRun (.halted s.pc))

end Sys2Proof.Machine
end

