-- ==== Sys2Proof/Machine/Increment.lean ====
section
/-! DEFINITION. The meanings of the increment instructions (spec/44_increment.md).
A meaning acts on the state after the operand bytes are fetched, with PC still at the opcode; it moves PC and counts
the step itself (R110, assumption 8). -/

namespace Sys2Proof.Machine

/-- `INC $nn` (R150, R85). -/
def execIncZp (b1 : Byte) (s : State) : Result := .next ((s.retire 2).modify (fun v => v + 1) (zeroPage b1))

/-- `INC $nn,X` (R150, R86). -/
def execIncZpX (b1 : Byte) (s : State) : Result := .next ((s.retire 2).modify (fun v => v + 1) (zeroPageIndexed b1 s.x))

/-- `INC $hhll` (R150, R88). -/
def execIncAbs (addr : Addr) (s : State) : Result := .next ((s.retire 3).modify (fun v => v + 1) addr)

/-- `INC $hhll,X` (R150, R89). -/
def execIncAbsX (addr : Addr) (s : State) : Result := .next ((s.retire 3).modify (fun v => v + 1) (absoluteIndexed addr s.x))

/-- `INX` (R151). -/
def execInx (s : State) : Result := .next ((s.retire 1).putX (s.x + 1))

/-- `INY` (R152). -/
def execIny (s : State) : Result := .next ((s.retire 1).putY (s.y + 1))

end Sys2Proof.Machine
end

