-- ==== Sys2Proof/Machine/Load.lean ====
section
/-! DEFINITION. The meanings of the load instructions (spec/41_load.md).
A meaning acts on the state after the operand bytes are fetched, with PC still at the opcode; it moves PC and counts
the step itself (R110, assumption 8). -/

namespace Sys2Proof.Machine

/-- `LDA #$nn` (R120, R84). -/
def execLdaImm (b1 : Byte) (s : State) : Result := .next ((s.retire 2).putA b1)

/-- `LDA $nn` (R120, R85). -/
def execLdaZp (b1 : Byte) (s : State) : Result := .next ((s.retire 2).loadA (zeroPage b1))

/-- `LDA $nn,X` (R120, R86). -/
def execLdaZpX (b1 : Byte) (s : State) : Result := .next ((s.retire 2).loadA (zeroPageIndexed b1 s.x))

/-- `LDA $hhll` (R120, R88). -/
def execLdaAbs (addr : Addr) (s : State) : Result := .next ((s.retire 3).loadA addr)

/-- `LDA $hhll,X` (R120, R89). -/
def execLdaAbsX (addr : Addr) (s : State) : Result := .next ((s.retire 3).loadA (absoluteIndexed addr s.x))

/-- `LDA $hhll,Y` (R120, R90). -/
def execLdaAbsY (addr : Addr) (s : State) : Result := .next ((s.retire 3).loadA (absoluteIndexed addr s.y))

/-- `LDX #$nn` (R121, R84). -/
def execLdxImm (b1 : Byte) (s : State) : Result := .next ((s.retire 2).putX b1)

/-- `LDX $nn` (R121, R85). -/
def execLdxZp (b1 : Byte) (s : State) : Result := .next ((s.retire 2).loadX (zeroPage b1))

/-- `LDX $nn,Y` (R121, R87). -/
def execLdxZpY (b1 : Byte) (s : State) : Result := .next ((s.retire 2).loadX (zeroPageIndexed b1 s.y))

/-- `LDX $hhll` (R121, R88). -/
def execLdxAbs (addr : Addr) (s : State) : Result := .next ((s.retire 3).loadX addr)

/-- `LDX $hhll,Y` (R121, R90). -/
def execLdxAbsY (addr : Addr) (s : State) : Result := .next ((s.retire 3).loadX (absoluteIndexed addr s.y))

/-- `LDY #$nn` (R122, R84). -/
def execLdyImm (b1 : Byte) (s : State) : Result := .next ((s.retire 2).putY b1)

/-- `LDY $nn` (R122, R85). -/
def execLdyZp (b1 : Byte) (s : State) : Result := .next ((s.retire 2).loadY (zeroPage b1))

/-- `LDY $nn,X` (R122, R86). -/
def execLdyZpX (b1 : Byte) (s : State) : Result := .next ((s.retire 2).loadY (zeroPageIndexed b1 s.x))

/-- `LDY $hhll` (R122, R88). -/
def execLdyAbs (addr : Addr) (s : State) : Result := .next ((s.retire 3).loadY addr)

/-- `LDY $hhll,X` (R122, R89). -/
def execLdyAbsX (addr : Addr) (s : State) : Result := .next ((s.retire 3).loadY (absoluteIndexed addr s.x))

end Sys2Proof.Machine
end

