-- ==== Sys2Proof/Machine/Store.lean ====
section
/-! DEFINITION. The meanings of the store instructions (spec/42_store.md): no data read, no flag written.
A meaning acts on the state after the operand bytes are fetched, with PC still at the opcode; it moves PC and counts
the step itself (R110, assumption 8). -/

namespace Sys2Proof.Machine

/-- `STA $nn` (R130, R85). -/
def execStaZp (b1 : Byte) (s : State) : Result := .next ((s.retire 2).memWrite (zeroPage b1) s.a)

/-- `STA $nn,X` (R130, R86). -/
def execStaZpX (b1 : Byte) (s : State) : Result := .next ((s.retire 2).memWrite (zeroPageIndexed b1 s.x) s.a)

/-- `STA $hhll` (R130, R88). -/
def execStaAbs (addr : Addr) (s : State) : Result := .next ((s.retire 3).memWrite addr s.a)

/-- `STA $hhll,X` (R130, R89). -/
def execStaAbsX (addr : Addr) (s : State) : Result := .next ((s.retire 3).memWrite (absoluteIndexed addr s.x) s.a)

/-- `STA $hhll,Y` (R130, R90). -/
def execStaAbsY (addr : Addr) (s : State) : Result := .next ((s.retire 3).memWrite (absoluteIndexed addr s.y) s.a)

/-- `STX $nn` (R131, R85). -/
def execStxZp (b1 : Byte) (s : State) : Result := .next ((s.retire 2).memWrite (zeroPage b1) s.x)

/-- `STX $nn,Y` (R131, R87). -/
def execStxZpY (b1 : Byte) (s : State) : Result := .next ((s.retire 2).memWrite (zeroPageIndexed b1 s.y) s.x)

/-- `STX $hhll` (R131, R88). -/
def execStxAbs (addr : Addr) (s : State) : Result := .next ((s.retire 3).memWrite addr s.x)

/-- `STY $nn` (R132, R85). -/
def execStyZp (b1 : Byte) (s : State) : Result := .next ((s.retire 2).memWrite (zeroPage b1) s.y)

/-- `STY $nn,X` (R132, R86). -/
def execStyZpX (b1 : Byte) (s : State) : Result := .next ((s.retire 2).memWrite (zeroPageIndexed b1 s.x) s.y)

/-- `STY $hhll` (R132, R88). -/
def execStyAbs (addr : Addr) (s : State) : Result := .next ((s.retire 3).memWrite addr s.y)

end Sys2Proof.Machine
end

