-- ==== Sys2Proof/Machine/Transfer.lean ====
section
/-! DEFINITION. The meanings of the transfer instructions (spec/43_transfer.md).
A meaning acts on the state after the operand bytes are fetched, with PC still at the opcode; it moves PC and counts
the step itself (R110, assumption 8). -/

namespace Sys2Proof.Machine

/-- `TAX` (R140). -/
def execTax (s : State) : Result := .next ((s.retire 1).putX s.a)

/-- `TAY` (R141). -/
def execTay (s : State) : Result := .next ((s.retire 1).putY s.a)

/-- `TXA` (R142). -/
def execTxa (s : State) : Result := .next ((s.retire 1).putA s.x)

/-- `TYA` (R143). -/
def execTya (s : State) : Result := .next ((s.retire 1).putA s.y)

/-- `TSX` (R144). -/
def execTsx (s : State) : Result := .next ((s.retire 1).putX s.sp)

/-- `TXS` (R145): SP <- X; N and Z follow X because `TXS_UPDATES_FLAGS` holds here (D19). -/
def execTxs (s : State) : Result :=
  .next (if Config.txsUpdatesFlags then ((s.retire 1).setSp s.x).setNZ s.x else (s.retire 1).setSp s.x)

end Sys2Proof.Machine
end

