-- ==== Sys2Proof/Machine/Fetch.lean ====
section
/-! DEFINITION. Fetching an instruction and one CPU step (spec/40_step.md R110, spec/30_encoding.md R83). -/

namespace Sys2Proof.Machine

/-- What a fetch finds at PC: an instruction, or an opcode byte that is not admitted (R92). -/
inductive Fetched where
  | instr (i : Instr)
  | unsupported (op : Byte)
  deriving DecidableEq, Repr

/-- The opcode byte, then the operand bytes its mode has, in address order, each read once through the accessor
(R83, R54), addresses modulo 65536. An unsupported opcode fetches no operand (R191). PC does not move here. -/
def State.fetch (s : State) : Fetched × State :=
  let op := s.memRead s.pc
  match decodeOpcode op.1 with
  | none => (.unsupported op.1, op.2)
  | some row =>
    match row.mode.operandCount with
    | 0 => (.instr (row.build 0 0), op.2)
    | 1 =>
      let b1 := op.2.memRead (s.pc + 1)
      (.instr (row.build b1.1 0), b1.2)
    | _ =>
      let b1 := op.2.memRead (s.pc + 1)
      let b2 := b1.2.memRead (s.pc + 2)
      (.instr (row.build b1.1 b2.1), b2.2)

/-- One CPU step, once it is enabled (R110): fetch, then the instruction's meaning, or the end of the run at an
unsupported opcode with PC at that opcode (R191, R204). -/
def cpuStep (s : State) : Result :=
  match s.fetch with
  | (.instr i, t) => exec i t
  | (.unsupported op, t) => .next (t.endRun (.unsupported op t.pc))

end Sys2Proof.Machine
end

