-- ==== Sys2Proof/Machine/Ppu.lean ====
section
/-! DEFINITION. The PPU timing generator (spec/60_exceptions.md R210 to R215). -/

namespace Sys2Proof.Machine

/-- The line is over (R211 to R214): the scanline advances; entering 241 sets VBL, reaching 262 wraps to 0 and
clears it. -/
def State.nextLine (s : State) : State :=
  if s.scanline + 1 = 241 then
    { s with cycle := 0, scanline := 241, ppuStatus := setVbl s.ppuStatus }
  else if s.scanline + 1 = 262 then
    { s with cycle := 0, scanline := 0, ppuStatus := clearVbl s.ppuStatus }
  else
    { s with cycle := 0, scanline := s.scanline + 1 }

/-- `Tick()` (R210): one cycle of the generator. It touches no CPU register and no memory cell. From a counter above its
range, which no run reaches, it counts modulo 512 (assumption 6). -/
def State.tick (s : State) : State :=
  if s.cycle + 1 = 341 then s.nextLine else { s with cycle := s.cycle + 1 }

/-- `n` ticks in a row. -/
def State.ticks : Nat → State → State
  | 0, s => s
  | n + 1, s => State.ticks n s.tick

end Sys2Proof.Machine
end

