-- ==== Sys2Proof/Machine/Schedule.lean ====
section
/-! DEFINITION. How CPU steps and PPU ticks interleave (spec/60_exceptions.md R216 to R218) and the driving loop's
budget (spec/70_reset_and_hazards.md R254). -/

namespace Sys2Proof.Machine

/-- A schedule (R216): the number of PPU ticks after the `n`-th completed CPU step and before the next one; at 0,
before the first. Every order with finitely many ticks between two steps is one. -/
abbrev Schedule := Nat → Nat

/-- The reference schedule of test runners and vectors (R218): no tick before the first step, then three after each.
It is no property of the hardware. -/
def referenceSchedule : Schedule := fun n => if n = 0 then 0 else Config.ppuTicksPerStep

/-- The same outcome with the next state changed by `f`. -/
def mapNext (f : State → State) : Result → Result
  | .next s => .next (f s)
  | .fault r => .fault r
  | .refused r => .refused r

/-- After a CPU step that did not end the run, the schedule's ticks are due (R216). -/
def State.handOver (sched : Schedule) (s : State) : State :=
  match s.runState with
  | .running => { s with ticksDue := sched s.steps }
  | _ => s

/-- The driving loop's turn to step the CPU (R254): the budget is checked before anything is fetched (R203). -/
def cpuTurn (sched : Schedule) (s : State) : Result :=
  if s.steps = s.stepBudget then .next (s.endRun .budgetExhausted)
  else mapNext (State.handOver sched) (cpuStep s)

/-- One action of a run under a schedule: a PPU tick while one is due, else the CPU's turn. A run that has ended
enables neither (R34, R201; assumption 5). -/
def stepWith (sched : Schedule) (s : State) : Result :=
  match s.runState with
  | .running =>
    match s.ticksDue with
    | 0 => cpuTurn sched s
    | n + 1 => .next { s.tick with ticksDue := n }
  | .halted addr => .fault (.halted addr)
  | .unsupported op addr => .fault (.unsupportedOpcode op addr)
  | .budgetExhausted => .fault .budgetExhausted

/-! ### Putting an instruction where the next step fetches it -/

/-- Byte `k` of an instruction word whose bits above `nbits` are 0; byte 0 is the opcode. -/
def wordByte (nbits w k : Nat) : Byte := BitVec.ofNat 8 (w % 2 ^ nbits / 256 ^ k)

/-- The state in which a fetch of `a` reads `v`: a fetch of `PPUSTATUS_ADDR` reads PPUSTATUS (R54), so the byte goes
there (assumption 4). -/
def State.placeFetchByte (s : State) (a : Addr) (v : Byte) : State :=
  if a = Config.ppuStatusAddr then { s with ppuStatus := v } else s.memWrite a v

/-- The state in which the next action is a CPU step that the budget allows. -/
def State.allowStep (s : State) : State :=
  { s with runState := .running, ticksDue := 0, stepBudget := s.steps + 1 }

end Sys2Proof.Machine
end

