-- ==== Sys2Proof/Machine/Step.lean ====
section
/-! DEFINITION. The machine's step, and how an instruction is put where the step fetches. -/

namespace Sys2Proof.Machine

/-- One action of a run whose schedule nothing fixes (R216): the schedule is a free value (assumption 2). -/
def step (s : State) : Host.Outcome State Fault Refusal := stepWith Config.ticksAfterStep s

/-- The state with the instruction of a table word stored where the next step fetches it, and that step the CPU's:
running, no tick due, the budget not reached (assumption 4). -/
def State.withFetchWord (s : State) (nbits w : Nat) : State :=
  ((((s.allowStep).placeFetchByte s.pc (wordByte nbits w 0)).placeFetchByte (s.pc + 1) (wordByte nbits w 1)).placeFetchByte
    (s.pc + 2) (wordByte nbits w 2))

end Sys2Proof.Machine
end

