-- ==== Sys2Proof/Machine/Launch.lean ====
section
/-! DEFINITION. How a run starts and what it yields (spec/70_reset_and_hazards.md R240 to R255): the cartridge loader,
the reset of the PPU and the CPU, and the terminations with their codes (spec/60_exceptions.md R200). The loader is
surrounding software: no step performs it (R3, C5, assumption 9). -/

namespace Sys2Proof.Machine

/-! ### Terminations -/

/-- Every way a run can end, with its recorded value (R200). -/
inductive Termination where
  | halted (addr : Addr)
  | unsupported (op : Byte) (addr : Addr)
  | budgetExhausted (steps : Nat)
  | setupFileOpen
  | setupHeaderInvalid
  | setupProgramLoad
  | setupPatternLoad
  deriving DecidableEq, Repr

/-- The spec's own code for a termination (R200, D26). -/
def Termination.code : Termination → Nat
  | .halted _ => 1
  | .unsupported _ _ => 2
  | .budgetExhausted _ => 3
  | .setupFileOpen => 10
  | .setupHeaderInvalid => 11
  | .setupProgramLoad => 12
  | .setupPatternLoad => 13

/-- What a run that has reached this state yields (R255); `none` while it runs. -/
def State.termination (s : State) : Option Termination :=
  match s.runState with
  | .running => none
  | .halted addr => some (.halted addr)
  | .unsupported op addr => some (.unsupported op addr)
  | .budgetExhausted => some (.budgetExhausted s.steps)

/-! ### Reset -/

/-- The PPU reset (R251). -/
def State.ppuReset (s : State) : State :=
  { s with cycle := 0, scanline := 0, ppuStatus := Config.ppuStatusReset }

/-- The CPU reset (R250): the registers, then PC from the vector, read through the accessor (D11). -/
def State.cpuReset (s : State) : State :=
  let r := { s with a := 0x00, x := 0x00, y := 0x00, sp := Config.spReset, p := Config.pReset }.memRead16
    Config.resetVector
  { r.2 with pc := r.1, steps := 0, runState := .running }

/-- The machine before its reset, with a memory image, a budget and a schedule's ticks before the first step. What the
other fields hold is overwritten by the two resets. -/
def State.powerOn (mem : Memory) (budget ticks : Nat) : State :=
  { State.reset with mem := mem, stepBudget := budget, ticksDue := ticks }

/-- Stage 5 of the launch (R240): the PPU, then the CPU. -/
def State.afterReset (mem : Memory) (budget ticks : Nat) : State :=
  (State.powerOn mem budget ticks).ppuReset.cpuReset

/-! ### The cartridge loader -/

/-- Byte `k` of a file, 0 past its end; it is read only inside the header, after its length is checked. -/
def fileByte (file : List Byte) (k : Nat) : Byte := (file[k]?).getD 0

/-- `validate` (R241): the four signature bytes, in a file that has a whole header (D29). -/
def headerValid (file : List Byte) : Bool :=
  16 ≤ file.length && file.take 4 == [0x4E, 0x45, 0x53, 0x1A]

/-- Header byte 4 (R242): the program size in units of 16,384 bytes. -/
def prgUnits (file : List Byte) : Nat := (fileByte file 4).toNat

/-- Header byte 5 (R242): the pattern-data size in units of 8,192 bytes. -/
def chrUnits (file : List Byte) : Nat := (fileByte file 5).toNat

/-- Header byte 6 bit 2 (R242): a trainer stands before the program data. -/
def trainerPresent (file : List Byte) : Bool := (fileByte file 6).getLsbD 2

/-- The program image's file offset (R243): the header, and the trainer if there is one. -/
def prgOffset (file : List Byte) : Nat := 16 + (if trainerPresent file then 512 else 0)

/-- `n` file bytes from an offset; `none` on a short read (R244, R248). -/
def readFile (file : List Byte) (offset n : Nat) : Option (List Byte) :=
  let bytes := (file.drop offset).take n
  if bytes.length = n then some bytes else none

/-- Bytes written to consecutive cells from a base address (R245): not a CPU access, so no status side effect. -/
def Memory.install : Memory → Nat → List Byte → Memory
  | m, _, [] => m
  | m, base, b :: rest => Memory.install (m.write (BitVec.ofNat 16 base) b) (base + 1) rest

/-- `loadProgram` (R244 to R247): one unit is installed twice, two units once; `none` installs nothing. -/
def loadProgram (file : List Byte) (m : Memory) : Option Memory :=
  match prgUnits file with
  | 1 => (readFile file (prgOffset file) 16384).map
      (fun prg => (m.install Config.prgBase prg).install (Config.prgBase + 16384) prg)
  | 2 => (readFile file (prgOffset file) 32768).map (fun prg => m.install Config.prgBase prg)
  | _ => none

/-- `loadPatternData` (R248): a zero-filled unit when the header asks for none, else the bytes after the program. -/
def loadPatternData (file : List Byte) : Option (List Byte) :=
  if chrUnits file = 0 then some (List.replicate 8192 0)
  else readFile file (prgOffset file + 16384 * prgUnits file) (8192 * chrUnits file)

/-- What a launch yields: a setup termination with the memory it leaves (R249), or the machine after reset and the
pattern data, which the CPU cannot see (R248). -/
inductive Launched where
  | failed (reason : Termination) (mem : Memory)
  | ready (s : State) (pattern : List Byte)
  deriving DecidableEq, Repr

/-- The launch sequence (R240), its stages in order: `file` is `none` when it cannot be opened, `initMem` is
`INIT_MEM` (R68), `budget` is `STEP_BUDGET`, `sched` is the run's schedule. -/
def launch (file : Option (List Byte)) (initMem : Memory) (budget : Nat) (sched : Schedule) : Launched :=
  match file with
  | none => .failed .setupFileOpen initMem
  | some file =>
    if headerValid file then
      match loadProgram file initMem with
      | none => .failed .setupProgramLoad initMem
      | some mem =>
        match loadPatternData file with
        | none => .failed .setupPatternLoad mem
        | some pattern => .ready (State.afterReset mem budget (sched 0)) pattern
    else .failed .setupHeaderInvalid initMem

end Sys2Proof.Machine
end

