-- ==== Sys2Proof/Safety.lean ====
section
/-! DEFINITION. What holds in every state a run reaches, what a safe run is, and the fairness that a claim about waiting
may assume. -/

namespace Sys2Proof.Machine

/-- VBL is 1 only while the generator is on scanlines 241 to 261 (R213, R214). -/
def State.vblInFrame (s : State) : Prop := s.vbl = true → 241 ≤ s.scanline.toNat

/-- The final run states agree with PC and the step count (R112, R204, R254). -/
def State.endConsistent (s : State) : Prop :=
  match s.runState with
  | .running => True
  | .halted addr => s.pc = addr
  | .unsupported _ addr => s.pc = addr
  | .budgetExhausted => s.steps = s.stepBudget

/-- What every reachable state satisfies: memory in canonical form, the PPU counters in range (R211, R212), PPUSTATUS
bits 6:0 zero (R36), VBL only inside the blank lines, the flags that no instruction writes as reset left them (R28), N
and Z never both set (R29), the budget not overrun (R254), a final run state in agreement with PC. -/
structure State.Inv (s : State) : Prop where
  memory : s.mem.wf = true
  cycle : s.cycle.toNat ≤ 340
  scanline : s.scanline.toNat ≤ 261
  status : s.ppuStatus &&& 0x7F = 0
  blank : s.vblInFrame
  fixedFlags : s.p &&& 0x7D = Config.pReset &&& 0x7D
  flagsApart : ¬ (flagOf s.p .negative = true ∧ flagOf s.p .zero = true)
  budget : s.steps ≤ s.stepBudget
  ended : s.endConsistent

/-- A state that is safe for a program that means to stop at HLT: the run has not ended at an unsupported opcode. -/
def State.safe (s : State) : Prop := ∀ op addr, s.runState ≠ .unsupported op addr

/-- The half of the fairness of R217 that a schedule can lack: the PPU ticks infinitely often. The CPU's half holds of
every schedule, since only finitely many ticks come between two steps. -/
def Schedule.fairToPpu (sched : Schedule) : Prop := ∀ n, ∃ m, n ≤ m ∧ sched m ≠ 0

/-- An address is one of the bytes of an instruction of `len` bytes at `pc` (R80). -/
def inInstruction (pc : Addr) (len : Nat) (a : Addr) : Bool :=
  (List.range len).any (fun k => pc + BitVec.ofNat 16 k == a)

/-- The CPU step from this state reads address `a`: as a byte of the instruction it fetches, or as that instruction's
data (R51, R54). -/
def State.cpuReads (s : State) (a : Addr) : Bool :=
  match s.fetch.1 with
  | .instr i => inInstruction s.pc i.length a || loadAddress i s == some a
  | .unsupported _ => s.pc == a

end Sys2Proof.Machine
end

