-- ==== Sys2Proof/Certificates/Slice0/Obligations.lean ====
section
/-! DEFINITION. The statements about the machine. Each follows numbered rules of spec/, named in its docstring; where one
rests on a decision of the spec (D<n>) or on an entry of the assumption log, the docstring says so. -/

/-! ### Words the statements share -/

namespace Sys2Proof.Claims

open Sys2Proof Sys2Proof.Machine

/-- `i` completes in every state: A gets the byte a CPU read of the effective address returns, with that read's effect, N
and Z follow the byte, PC moves past `len` bytes, and nothing else changes. -/
def LoadsA (i : Instr) (len : Addr) (ea : State → Addr) : Prop :=
  ∀ s : State, exec i s = .next { s.touch (ea s) with
    a := s.peek (ea s), p := updateNZ (s.peek (ea s)) s.p, pc := s.pc + len, steps := s.steps + 1 }

/-- The same with X as the destination. -/
def LoadsX (i : Instr) (len : Addr) (ea : State → Addr) : Prop :=
  ∀ s : State, exec i s = .next { s.touch (ea s) with
    x := s.peek (ea s), p := updateNZ (s.peek (ea s)) s.p, pc := s.pc + len, steps := s.steps + 1 }

/-- The same with Y as the destination. -/
def LoadsY (i : Instr) (len : Addr) (ea : State → Addr) : Prop :=
  ∀ s : State, exec i s = .next { s.touch (ea s) with
    y := s.peek (ea s), p := updateNZ (s.peek (ea s)) s.p, pc := s.pc + len, steps := s.steps + 1 }

/-- `i` completes in every state: the cell at the effective address gets the register, PC moves past `len` bytes, and
nothing else changes: no flag, no register, not PPUSTATUS. -/
def Stores (i : Instr) (len : Addr) (ea : State → Addr) (reg : State → Byte) : Prop :=
  ∀ s : State, exec i s = .next { s with
    mem := s.mem.write (ea s) (reg s), pc := s.pc + len, steps := s.steps + 1 }

/-- `i` completes in every state: one CPU read of the effective address with its effect, `f` of the byte written to the
cell there, N and Z from the result, PC past `len` bytes, and nothing else changes. -/
def Modifies (i : Instr) (len : Addr) (f : Byte → Byte) (ea : State → Addr) : Prop :=
  ∀ s : State, exec i s = .next { s.touch (ea s) with
    mem := s.mem.write (ea s) (f (s.peek (ea s))), p := updateNZ (f (s.peek (ea s))) s.p,
    pc := s.pc + len, steps := s.steps + 1 }

/-- The branch with opcode `op`, taken exactly when flag `f` of P is `want`: it completes in every state, PC goes to
`(pc +16 2) +16 sext_16(b1)` or past its two bytes, and nothing else changes. -/
def Branches (i : Byte → Instr) (op : Byte) (f : Flag) (want : Bool) : Prop :=
  ∀ b1 : Byte, encode (i b1) = [op, b1] ∧ ∀ s : State, exec (i b1) s = .next { s with
    pc := if flagOf s.p f = want then (s.pc + 2) + sext16 b1 else s.pc + 2, steps := s.steps + 1 }

/-- The byte a storing instruction stores (R130 to R132, R150, R160). -/
def storedByte (i : Instr) (s : State) (ea : Addr) : Byte :=
  match i.mnemonic with
  | .sta => s.a
  | .stx => s.x
  | .sty => s.y
  | .inc => s.peek ea + 1
  | .dec => s.peek ea - 1
  | _ => 0

/-- The instructions that read X: as their operand, or as the index of their mode (R22). -/
def readsX (i : Instr) : Bool :=
  i.mnemonic ∈ [.stx, .txa, .txs, .inx, .dex] || i.mode ∈ [.zeroPageX, .absoluteX]

/-- The instructions that read Y: as their operand, or as the index of their mode (R23). -/
def readsY (i : Instr) : Bool :=
  i.mnemonic ∈ [.sty, .tya, .iny, .dey] || i.mode ∈ [.zeroPageY, .absoluteY]

end Sys2Proof.Claims

open Sys2Proof Sys2Proof.Machine Sys2Proof.Claims

/-! ### Encoding -/

/-- R80 to R82, R88, R93: decoding the encoding of any instruction, whatever follows it, gives it back with every operand
byte, and leaves what follows. -/
def Obligations.DecodeOfEncodeIsIdentity : Prop :=
  ∀ (i : Instr) (rest : List Byte), decode (encode i ++ rest) = .ok (i, rest)

/-- R81, R92, R93: each admitted byte sequence has one meaning: whatever bytes decode to an instruction are its encoding. -/
def Obligations.DecodedBytesAreTheEncoding : Prop :=
  ∀ (bytes : List Byte) (i : Instr) (rest : List Byte), decode bytes = .ok (i, rest) → bytes = encode i ++ rest

/-- R82, R93: words written out from the spec's encodings, one or two per family, decode to the instruction they stand for;
absolute operands come low byte first (R88). -/
def Obligations.EncodedWordsDecodeAsListed : Prop :=
  decode [0xA9, 0x44] = .ok (.ldaImm 0x44, []) ∧ decode [0xB9, 0xFF, 0x80] = .ok (.ldaAbsY 0x80FF, []) ∧
  decode [0xB6, 0xF8] = .ok (.ldxZpY 0xF8, []) ∧ decode [0xBC, 0x00, 0x20] = .ok (.ldyAbsX 0x2000, []) ∧
  decode [0x8D, 0x00, 0x02] = .ok (.staAbs 0x0200, []) ∧ decode [0x96, 0xFF] = .ok (.stxZpY 0xFF, []) ∧
  decode [0xBA] = .ok (.tsx, []) ∧ decode [0x9A] = .ok (.txs, []) ∧
  decode [0xFE, 0xFF, 0xFF] = .ok (.incAbsX 0xFFFF, []) ∧ decode [0xD6, 0xF0] = .ok (.decZpX 0xF0, []) ∧
  decode [0xD0, 0x7F] = .ok (.bne 0x7F, []) ∧ decode [0x00] = .ok (.hlt, [])

/-- R93, R94: the admitted opcode bytes are the 54 of the map, listed here by row of the map, and a CPU step whose opcode
byte is any of the 202 others ends the run with `Unsupported(op, pc)`. The byte values are the spec's decisions D1 and D2
(assumption 7). -/
def Obligations.UnsupportedOpcodesAreTheOther202 : Prop :=
  let admitted : List Byte :=
    [0x00, 0x10, 0x30, 0x50, 0x70] ++ [0x84, 0x85, 0x86, 0x88, 0x8A, 0x8C, 0x8D, 0x8E] ++
    [0x90, 0x94, 0x95, 0x96, 0x98, 0x99, 0x9A, 0x9D] ++
    [0xA0, 0xA2, 0xA4, 0xA5, 0xA6, 0xA8, 0xA9, 0xAA, 0xAC, 0xAD, 0xAE] ++
    [0xB0, 0xB4, 0xB5, 0xB6, 0xB9, 0xBA, 0xBC, 0xBD, 0xBE] ++ [0xC6, 0xC8, 0xCA, 0xCE] ++
    [0xD0, 0xD6, 0xDE] ++ [0xE6, 0xE8, 0xEE] ++ [0xF0, 0xF6, 0xFE]
  admitted.Nodup ∧ admitted.length = 54 ∧
  ∀ op : Byte, ((decodeOpcode op).isSome = true ↔ op ∈ admitted) ∧
    (op ∉ admitted → ∀ s : State, s.peek s.pc = op →
      cpuStep s = .next { s.touch s.pc with runState := .unsupported op s.pc })

/-- R91, R96: a branch target is `pc + 2` plus the signed displacement modulo 65536, and the assembler finds a displacement
for exactly the labels that some displacement reaches, and finds that one. -/
def Obligations.BranchTargetsAndLabelsAgree : Prop :=
  (∀ (pc : Addr) (b1 : Byte), ((branchTarget pc b1).toNat : Int) = (pc.toNat + 2 + b1.toInt) % 65536) ∧
  (∀ (pc label : Addr) (b1 : Byte), assembleBranch pc label = some b1 ↔ branchTarget pc b1 = label)

/-- R93, R96: every instruction, written as mnemonic, mode and operand, assembles to itself; a written instruction whose
mnemonic has no such mode, or whose operand does not fit, assembles to nothing. -/
def Obligations.WrittenInstructionsAssemble : Prop :=
  (∀ i : Instr, i.written.toInstr = some i) ∧
  (∀ w : Written, (w.mode ∉ admittedModes w.mnemonic ∨ w.mode.operandBound ≤ w.operand) → w.toInstr = none) ∧
  (∀ w : Written, w.mode ∈ admittedModes w.mnemonic → w.operand < w.mode.operandBound →
    ∃ i, w.toInstr = some i ∧ i.written = w)

/-! ### Addressing -/

/-- R86, R87: the zero-page indexed sum is modulo 256 and stays in the zero page, for every base and index. -/
def Obligations.ZeroPageIndexedStaysInZeroPage : Prop :=
  ∀ b1 index : Byte, (zeroPageIndexed b1 index).toNat = (b1.toNat + index.toNat) % 256 ∧
    (zeroPageIndexed b1 index).toNat < 256

/-- R89, R90: the absolute indexed sum is modulo 65536: a carry goes into the high byte, and one out of bit 15 is lost. -/
def Obligations.AbsoluteIndexedWrapsAt65536 : Prop :=
  ∀ (base : Addr) (index : Byte), (absoluteIndexed base index).toNat = (base.toNat + index.toNat) % 65536

/-! ### Flags -/

/-- R29: `UpdateNZ(v)` sets Z iff `v` is zero and N iff bit 7 of `v`, changes no other flag, and never leaves both set, as
`P_RESET` has them not both set either; every load, transfer, increment and decrement (TXS among them, D19) applies it, and
every other instruction leaves P as it was. -/
def Obligations.UpdateNZIsTheOnlyFlagWrite : Prop :=
  (∀ v p : Byte, flagOf (updateNZ v p) .zero = (v == 0) ∧ flagOf (updateNZ v p) .negative = v.getLsbD 7 ∧
    (∀ f : Flag, f ≠ .zero → f ≠ .negative → flagOf (updateNZ v p) f = flagOf p f) ∧
    ¬ (flagOf (updateNZ v p) .negative = true ∧ flagOf (updateNZ v p) .zero = true)) ∧
  ¬ (flagOf Config.pReset .negative = true ∧ flagOf Config.pReset .zero = true) ∧
  (∀ (i : Instr) (s t : State), exec i s = .next t →
    if i.mnemonic ∈ [.lda, .ldx, .ldy, .tax, .tay, .txa, .tya, .tsx, .txs, .inc, .inx, .iny, .dec, .dex, .dey]
    then ∃ v, t.p = updateNZ v s.p else t.p = s.p)

/-! ### What each instruction does -/

/-- R120: LDA in its six forms. -/
def Obligations.LdaLoadsAInEveryForm : Prop :=
  (∀ (b1 : Byte), encode (.ldaImm b1) = [0xA9, b1] ∧ ∀ s : State, exec (.ldaImm b1) s =
    .next { s with a := b1, p := updateNZ b1 s.p, pc := s.pc + 2, steps := s.steps + 1 }) ∧
  (∀ b1 : Byte, encode (.ldaZp b1) = [0xA5, b1] ∧ LoadsA (.ldaZp b1) 2 (fun _ => zext16 b1)) ∧
  (∀ b1 : Byte, encode (.ldaZpX b1) = [0xB5, b1] ∧ LoadsA (.ldaZpX b1) 2 (fun s => zext16 (b1 + s.x))) ∧
  (∀ b1 b2 : Byte, encode (.ldaAbs (joinBytes b2 b1)) = [0xAD, b1, b2] ∧
    LoadsA (.ldaAbs (joinBytes b2 b1)) 3 (fun _ => joinBytes b2 b1)) ∧
  (∀ b1 b2 : Byte, encode (.ldaAbsX (joinBytes b2 b1)) = [0xBD, b1, b2] ∧
    LoadsA (.ldaAbsX (joinBytes b2 b1)) 3 (fun s => joinBytes b2 b1 + zext16 s.x)) ∧
  (∀ b1 b2 : Byte, encode (.ldaAbsY (joinBytes b2 b1)) = [0xB9, b1, b2] ∧
    LoadsA (.ldaAbsY (joinBytes b2 b1)) 3 (fun s => joinBytes b2 b1 + zext16 s.y))

/-- R121: LDX in its five forms. -/
def Obligations.LdxLoadsXInEveryForm : Prop :=
  (∀ (b1 : Byte), encode (.ldxImm b1) = [0xA2, b1] ∧ ∀ s : State, exec (.ldxImm b1) s =
    .next { s with x := b1, p := updateNZ b1 s.p, pc := s.pc + 2, steps := s.steps + 1 }) ∧
  (∀ b1 : Byte, encode (.ldxZp b1) = [0xA6, b1] ∧ LoadsX (.ldxZp b1) 2 (fun _ => zext16 b1)) ∧
  (∀ b1 : Byte, encode (.ldxZpY b1) = [0xB6, b1] ∧ LoadsX (.ldxZpY b1) 2 (fun s => zext16 (b1 + s.y))) ∧
  (∀ b1 b2 : Byte, encode (.ldxAbs (joinBytes b2 b1)) = [0xAE, b1, b2] ∧
    LoadsX (.ldxAbs (joinBytes b2 b1)) 3 (fun _ => joinBytes b2 b1)) ∧
  (∀ b1 b2 : Byte, encode (.ldxAbsY (joinBytes b2 b1)) = [0xBE, b1, b2] ∧
    LoadsX (.ldxAbsY (joinBytes b2 b1)) 3 (fun s => joinBytes b2 b1 + zext16 s.y))

/-- R122: LDY in its five forms. -/
def Obligations.LdyLoadsYInEveryForm : Prop :=
  (∀ (b1 : Byte), encode (.ldyImm b1) = [0xA0, b1] ∧ ∀ s : State, exec (.ldyImm b1) s =
    .next { s with y := b1, p := updateNZ b1 s.p, pc := s.pc + 2, steps := s.steps + 1 }) ∧
  (∀ b1 : Byte, encode (.ldyZp b1) = [0xA4, b1] ∧ LoadsY (.ldyZp b1) 2 (fun _ => zext16 b1)) ∧
  (∀ b1 : Byte, encode (.ldyZpX b1) = [0xB4, b1] ∧ LoadsY (.ldyZpX b1) 2 (fun s => zext16 (b1 + s.x))) ∧
  (∀ b1 b2 : Byte, encode (.ldyAbs (joinBytes b2 b1)) = [0xAC, b1, b2] ∧
    LoadsY (.ldyAbs (joinBytes b2 b1)) 3 (fun _ => joinBytes b2 b1)) ∧
  (∀ b1 b2 : Byte, encode (.ldyAbsX (joinBytes b2 b1)) = [0xBC, b1, b2] ∧
    LoadsY (.ldyAbsX (joinBytes b2 b1)) 3 (fun s => joinBytes b2 b1 + zext16 s.x))

/-- R130: STA in its five forms. -/
def Obligations.StaStoresAInEveryForm : Prop :=
  (∀ b1 : Byte, encode (.staZp b1) = [0x85, b1] ∧ Stores (.staZp b1) 2 (fun _ => zext16 b1) (·.a)) ∧
  (∀ b1 : Byte, encode (.staZpX b1) = [0x95, b1] ∧ Stores (.staZpX b1) 2 (fun s => zext16 (b1 + s.x)) (·.a)) ∧
  (∀ b1 b2 : Byte, encode (.staAbs (joinBytes b2 b1)) = [0x8D, b1, b2] ∧
    Stores (.staAbs (joinBytes b2 b1)) 3 (fun _ => joinBytes b2 b1) (·.a)) ∧
  (∀ b1 b2 : Byte, encode (.staAbsX (joinBytes b2 b1)) = [0x9D, b1, b2] ∧
    Stores (.staAbsX (joinBytes b2 b1)) 3 (fun s => joinBytes b2 b1 + zext16 s.x) (·.a)) ∧
  (∀ b1 b2 : Byte, encode (.staAbsY (joinBytes b2 b1)) = [0x99, b1, b2] ∧
    Stores (.staAbsY (joinBytes b2 b1)) 3 (fun s => joinBytes b2 b1 + zext16 s.y) (·.a))

/-- R131: STX in its three forms. -/
def Obligations.StxStoresXInEveryForm : Prop :=
  (∀ b1 : Byte, encode (.stxZp b1) = [0x86, b1] ∧ Stores (.stxZp b1) 2 (fun _ => zext16 b1) (·.x)) ∧
  (∀ b1 : Byte, encode (.stxZpY b1) = [0x96, b1] ∧ Stores (.stxZpY b1) 2 (fun s => zext16 (b1 + s.y)) (·.x)) ∧
  (∀ b1 b2 : Byte, encode (.stxAbs (joinBytes b2 b1)) = [0x8E, b1, b2] ∧
    Stores (.stxAbs (joinBytes b2 b1)) 3 (fun _ => joinBytes b2 b1) (·.x))

/-- R132: STY in its three forms. -/
def Obligations.StyStoresYInEveryForm : Prop :=
  (∀ b1 : Byte, encode (.styZp b1) = [0x84, b1] ∧ Stores (.styZp b1) 2 (fun _ => zext16 b1) (·.y)) ∧
  (∀ b1 : Byte, encode (.styZpX b1) = [0x94, b1] ∧ Stores (.styZpX b1) 2 (fun s => zext16 (b1 + s.x)) (·.y)) ∧
  (∀ b1 b2 : Byte, encode (.styAbs (joinBytes b2 b1)) = [0x8C, b1, b2] ∧
    Stores (.styAbs (joinBytes b2 b1)) 3 (fun _ => joinBytes b2 b1) (·.y))

/-- R140 to R144: TAX, TAY, TXA, TYA and TSX copy a register and update N and Z from the value; they complete in every
state and change nothing else. Right after reset TSX gives 0xFD with N = 1 and Z = 0. -/
def Obligations.TransfersCopyAndUpdateNZ : Prop :=
  encode .tax = [0xAA] ∧ encode .tay = [0xA8] ∧ encode .txa = [0x8A] ∧ encode .tya = [0x98] ∧ encode .tsx = [0xBA] ∧
  (∃ t, exec .tsx State.reset = .next t ∧ t.x = 0xFD ∧ flagOf t.p .negative = true ∧ flagOf t.p .zero = false) ∧
  ∀ s : State,
    exec .tax s = .next { s with x := s.a, p := updateNZ s.a s.p, pc := s.pc + 1, steps := s.steps + 1 } ∧
    exec .tay s = .next { s with y := s.a, p := updateNZ s.a s.p, pc := s.pc + 1, steps := s.steps + 1 } ∧
    exec .txa s = .next { s with a := s.x, p := updateNZ s.x s.p, pc := s.pc + 1, steps := s.steps + 1 } ∧
    exec .tya s = .next { s with a := s.y, p := updateNZ s.y s.p, pc := s.pc + 1, steps := s.steps + 1 } ∧
    exec .tsx s = .next { s with x := s.sp, p := updateNZ s.sp s.p, pc := s.pc + 1, steps := s.steps + 1 }

/-- R145: TXS copies X to SP and updates N and Z, which is the spec's decision D19 (`TXS_UPDATES_FLAGS`, assumption 7); it
completes in every state and changes nothing else. -/
def Obligations.TxsCopiesXAndUpdatesNZ : Prop :=
  encode .txs = [0x9A] ∧ ∀ s : State,
    exec .txs s = .next { s with sp := s.x, p := updateNZ s.x s.p, pc := s.pc + 1, steps := s.steps + 1 }

/-- R150: INC in its four forms. -/
def Obligations.IncAddsOneInEveryForm : Prop :=
  (∀ b1 : Byte, encode (.incZp b1) = [0xE6, b1] ∧ Modifies (.incZp b1) 2 (· + 1) (fun _ => zext16 b1)) ∧
  (∀ b1 : Byte, encode (.incZpX b1) = [0xF6, b1] ∧ Modifies (.incZpX b1) 2 (· + 1) (fun s => zext16 (b1 + s.x))) ∧
  (∀ b1 b2 : Byte, encode (.incAbs (joinBytes b2 b1)) = [0xEE, b1, b2] ∧
    Modifies (.incAbs (joinBytes b2 b1)) 3 (· + 1) (fun _ => joinBytes b2 b1)) ∧
  (∀ b1 b2 : Byte, encode (.incAbsX (joinBytes b2 b1)) = [0xFE, b1, b2] ∧
    Modifies (.incAbsX (joinBytes b2 b1)) 3 (· + 1) (fun s => joinBytes b2 b1 + zext16 s.x))

/-- R160: DEC in its four forms. -/
def Obligations.DecSubtractsOneInEveryForm : Prop :=
  (∀ b1 : Byte, encode (.decZp b1) = [0xC6, b1] ∧ Modifies (.decZp b1) 2 (· - 1) (fun _ => zext16 b1)) ∧
  (∀ b1 : Byte, encode (.decZpX b1) = [0xD6, b1] ∧ Modifies (.decZpX b1) 2 (· - 1) (fun s => zext16 (b1 + s.x))) ∧
  (∀ b1 b2 : Byte, encode (.decAbs (joinBytes b2 b1)) = [0xCE, b1, b2] ∧
    Modifies (.decAbs (joinBytes b2 b1)) 3 (· - 1) (fun _ => joinBytes b2 b1)) ∧
  (∀ b1 b2 : Byte, encode (.decAbsX (joinBytes b2 b1)) = [0xDE, b1, b2] ∧
    Modifies (.decAbsX (joinBytes b2 b1)) 3 (· - 1) (fun s => joinBytes b2 b1 + zext16 s.x))

/-- R151, R152, R161, R162: INX, INY, DEX and DEY count modulo 256 and update N and Z from the result; they complete in
every state and change nothing else. -/
def Obligations.IndexRegistersCountModulo256 : Prop :=
  encode .inx = [0xE8] ∧ encode .iny = [0xC8] ∧ encode .dex = [0xCA] ∧ encode .dey = [0x88] ∧
  ∀ s : State,
    exec .inx s = .next { s with x := s.x + 1, p := updateNZ (s.x + 1) s.p, pc := s.pc + 1, steps := s.steps + 1 } ∧
    exec .iny s = .next { s with y := s.y + 1, p := updateNZ (s.y + 1) s.p, pc := s.pc + 1, steps := s.steps + 1 } ∧
    exec .dex s = .next { s with x := s.x - 1, p := updateNZ (s.x - 1) s.p, pc := s.pc + 1, steps := s.steps + 1 } ∧
    exec .dey s = .next { s with y := s.y - 1, p := updateNZ (s.y - 1) s.p, pc := s.pc + 1, steps := s.steps + 1 }

/-- R171, R172, R177, R178: the four branches on N and Z, with the corner cases those rules give: a zero displacement is no
branch, BPL after `LDA $2002` is taken exactly when VBL was 0, BNE falls through after DEX reaches 0, and Z is 0 in
`P_RESET` (0x34, the spec's decision D5). -/
def Obligations.BranchesOnNegativeAndZero : Prop :=
  Branches .bpl 0x10 .negative false ∧ Branches .bmi 0x30 .negative true ∧
  Branches .bne 0xD0 .zero false ∧ Branches .beq 0xF0 .zero true ∧
  (∀ pc : Addr, (pc + 2) + sext16 0x00 = pc + 2) ∧
  (∀ (s t : State) (b1 : Byte), exec (.ldaAbs 0x2002) s = .next t →
    exec (.bpl b1) t = .next { t with
      pc := if s.vbl then t.pc + 2 else (t.pc + 2) + sext16 b1, steps := t.steps + 1 }) ∧
  (∀ (s t : State) (b1 : Byte), s.x = 0x01 → exec .dex s = .next t →
    exec (.bne b1) t = .next { t with pc := t.pc + 2, steps := t.steps + 1 }) ∧
  flagOf Config.pReset .zero = false

/-- R173 to R176: the four branches on V and C, and what those rules say of the two flags: no admitted instruction writes
them, and both are 0 in `P_RESET` (decision D5), so BVC and BCC are taken and BVS and BCS are not while P holds it. -/
def Obligations.BranchesOnOverflowAndCarry : Prop :=
  Branches .bvc 0x50 .overflow false ∧ Branches .bvs 0x70 .overflow true ∧
  Branches .bcc 0x90 .carry false ∧ Branches .bcs 0xB0 .carry true ∧
  (∀ (i : Instr) (s t : State), exec i s = .next t →
    flagOf t.p .overflow = flagOf s.p .overflow ∧ flagOf t.p .carry = flagOf s.p .carry) ∧
  flagOf Config.pReset .overflow = false ∧ flagOf Config.pReset .carry = false

/-- R190, R204: HLT, byte 0x00 by the spec's decision D2, completes in every state by ending the run: the run state becomes
`Halted(pc)` and nothing else changes, PC and the step count included; a CPU step that fetches it does that after the
fetch's own effect. -/
def Obligations.HltEndsTheRunAtItsOpcode : Prop :=
  encode .hlt = [0x00] ∧
  (∀ s : State, exec .hlt s = .next { s with runState := .halted s.pc }) ∧
  (∀ s : State, s.peek s.pc = 0x00 → cpuStep s = .next { s.touch s.pc with runState := .halted s.pc })

/-! ### Memory and the status register -/

/-- R52: the one read accessor. A read of 0x2002 (decision D7) returns PPUSTATUS as it was (D10) and clears bit 7 of it and
no other bit; a read anywhere else returns the cell and changes nothing. -/
def Obligations.ReadAccessorClearsVblOnce : Prop :=
  ∀ s : State,
    (s.memRead 0x2002).1 = s.ppuStatus ∧
    (∃ v : Byte, (s.memRead 0x2002).2 = { s with ppuStatus := v } ∧ v.getLsbD 7 = false ∧
      ∀ k, k < 7 → v.getLsbD k = s.ppuStatus.getLsbD k) ∧
    ∀ a : Addr, a ≠ 0x2002 → s.memRead a = (s.mem.read a, s)

/-- R59: reads elsewhere have no side effect and repeat; the second of two status reads returns VBL = 0 whatever the first
returned; a write has no side effect at any address. -/
def Obligations.StatusReadIsNotIdempotent : Prop :=
  (∀ (s : State) (a : Addr), a ≠ 0x2002 → (s.memRead a).2 = s ∧ (s.memRead a).2.memRead a = s.memRead a) ∧
  (∀ s : State, ((s.memRead 0x2002).2.memRead 0x2002).1.getLsbD 7 = false ∧
    (s.ppuStatus.getLsbD 7 = true → (s.memRead 0x2002).1.getLsbD 7 = true)) ∧
  (∀ (s : State) (a : Addr) (v : Byte), s.memWrite a v = { s with mem := s.mem.write a v })

/-- R53: a write stores literally at every address, 0x2002 included, and leaves every other cell; it changes neither PPUSTATUS
nor the PPU counters; a byte written to 0x2002 is never returned to the CPU. -/
def Obligations.WritesStoreLiterally : Prop :=
  ∀ (s : State) (a : Addr) (v : Byte),
    (∀ b : Addr, (s.memWrite a v).mem.read b = if b = a then v else s.mem.read b) ∧
    (s.memWrite a v).ppuStatus = s.ppuStatus ∧ (s.memWrite a v).cycle = s.cycle ∧
    (s.memWrite a v).scanline = s.scanline ∧
    ((s.memWrite 0x2002 v).memRead 0x2002).1 = s.ppuStatus ∧
    (∀ b : Addr, b ≠ 0x2002 → ((s.memWrite a v).memRead b).1 = if b = a then v else (s.memRead b).1)

/-- R55, R56: a 16-bit read is little-endian, reads the lower address first, and wraps at 0xFFFF (decision D13). -/
def Obligations.SixteenBitReadIsLittleEndian : Prop :=
  ∀ (s : State) (a : Addr),
    (s.memRead16 a).1.toNat = 256 * (s.peek (a + 1)).toNat + (s.peek a).toNat ∧
    (s.memRead16 a).2 = (s.touch a).touch (a + 1) ∧ (0xFFFF : Addr) + 1 = 0x0000

/-- R50, R53: two memories in canonical form that hold the same byte at every address are the same list. -/
def Obligations.CanonicalMemoryIsUnique : Prop :=
  ∀ m n : Memory, m.wf = true → n.wf = true → (∀ a : Addr, m.read a = n.read a) → m = n

/-- The frame of memory (R111, R120 to R190): an instruction that stores changes the byte at the address its mode forms, to
the register or the counted byte it stores, and no other; every other instruction changes none. -/
def Obligations.MemoryChangesOnlyAtTheStoreAddress : Prop :=
  ∀ (i : Instr) (s t : State), exec i s = .next t →
    (∀ a : Addr, storeAddress i s ≠ some a → t.mem.read a = s.mem.read a) ∧
    (∀ a : Addr, storeAddress i s = some a → t.mem.read a = storedByte i s a)

/-- R66 (decision D33): what an instruction has stored is what the next fetch reads, whichever byte of the next instruction it
lies under and whatever it is. After any instruction the next instruction's bytes are the stored byte at the store address
and the old cell elsewhere, or PPUSTATUS at 0x2002, where no store is seen (R53); the fetch finds what those bytes decode to. In
particular a STA over the opcode right after it makes A the next opcode, for every A. -/
def Obligations.StoredOpcodeIsFetchedNext : Prop :=
  (∀ (i : Instr) (s t : State), exec i s = .next t →
    let byte : Addr → Byte := fun c =>
      if c = 0x2002 then t.ppuStatus else if storeAddress i s = some c then storedByte i s c else s.mem.read c
    t.peek t.pc = byte t.pc ∧
    (∀ (j : Instr) (rest : List Byte), decode [byte t.pc, byte (t.pc + 1), byte (t.pc + 2)] = .ok (j, rest) →
      t.fetch.1 = .instr j) ∧
    (decodeOpcode (byte t.pc) = none → t.fetch = (.unsupported (byte t.pc), t.touch t.pc))) ∧
  (∀ (s t : State), s.pc + 3 ≠ 0x2002 → exec (.staAbs (s.pc + 3)) s = .next t →
    t.pc = s.pc + 3 ∧ t.peek t.pc = s.a ∧
    (∀ (j : Instr) (rest : List Byte), decode [s.a, t.peek (t.pc + 1), t.peek (t.pc + 2)] = .ok (j, rest) →
      t.fetch.1 = .instr j) ∧
    (decodeOpcode s.a = none → t.fetch = (.unsupported s.a, t)))

/-- R150, R160, R53: away from 0x2002, DEC after INC of the same cell gives back the very same memory, from any memory in
canonical form. -/
def Obligations.DecrementUndoesIncrement : Prop :=
  ∀ (s t u : State) (addr : Addr), s.mem.wf = true → addr ≠ 0x2002 →
    exec (.incAbs addr) s = .next t → exec (.decAbs addr) t = .next u → u.mem = s.mem

/-! ### The step -/

/-- R83, R110, R111: while the run goes on, no tick is due and the budget is not used up, when the bytes at PC decode to an
instruction the action is that instruction's `exec`, from the state in which the fetch has cleared VBL if one of its bytes
lay at 0x2002; after it the schedule's next ticks are due if the run goes on. -/
def Obligations.StepRunsTheDecodedInstruction : Prop :=
  ∀ (sched : Schedule) (s : State) (i : Instr) (rest : List Byte),
    s.runState = .running → s.ticksDue = 0 → s.steps ≠ s.stepBudget →
    decode [s.peek s.pc, s.peek (s.pc + 1), s.peek (s.pc + 2)] = .ok (i, rest) →
    let fetched := if inInstruction s.pc i.length 0x2002 then { s with ppuStatus := clearVbl s.ppuStatus } else s
    stepWith sched s = mapNext (State.handOver sched) (exec i fetched) ∧
    step s = mapNext (State.handOver Config.ticksAfterStep) (exec i fetched)

/-- R191, R204: while the run goes on, no tick is due and the budget is not used up, an opcode byte that is not admitted ends
the run with `Unsupported(op, pc)`: only the opcode is fetched, PC, the step count, the registers and memory stay, and the
run cannot be resumed. -/
def Obligations.UnsupportedOpcodeEndsTheRun : Prop :=
  ∀ (sched : Schedule) (s : State), s.runState = .running → s.ticksDue = 0 → s.steps ≠ s.stepBudget →
    decodeOpcode (s.peek s.pc) = none →
    ∃ t, stepWith sched s = .next t ∧
      t = { s.touch s.pc with runState := .unsupported (s.peek s.pc) s.pc } ∧
      stepWith sched t = .fault (.unsupportedOpcode (s.peek s.pc) s.pc)

/-- R34, R201, R205: in a final run state no step and no tick is enabled; the model's `stepWith` answers a fault that names
the end (assumption 5). -/
def Obligations.EndedRunIsStuck : Prop :=
  ∀ (sched : Schedule) (s : State), s.runState ≠ .running →
    ∃ r, stepWith sched s = .fault r ∧ step s = .fault r ∧
      (match s.runState, r with
        | .halted addr, .halted b => addr = b
        | .unsupported op addr, .unsupportedOpcode o b => op = o ∧ addr = b
        | .budgetExhausted, .budgetExhausted => True
        | _, _ => False)

/-- R203, R254: the budget is checked before each CPU step (decision D34): when it is used up the run ends with nothing
fetched, and when it is not, the step does not end the run by the budget. -/
def Obligations.BudgetIsCheckedBeforeTheFetch : Prop :=
  ∀ (sched : Schedule) (s : State), s.runState = .running → s.ticksDue = 0 →
    (s.steps = s.stepBudget → stepWith sched s = .next { s with runState := .budgetExhausted }) ∧
    (s.steps ≠ s.stepBudget → ∀ t, stepWith sched s = .next t → t.runState ≠ .budgetExhausted)

/-- R112, R200: no instruction but HLT can end the run: each of the others completes in every state, counts one step, keeps
the run state, and leaves PC past its bytes or at its branch target. -/
def Obligations.OnlyHltEndsTheRun : Prop :=
  ∀ (i : Instr) (s : State), ∃ t, exec i s = .next t ∧
    if i = .hlt then t.pc = s.pc ∧ t.steps = s.steps ∧ t.runState = .halted s.pc
    else t.runState = s.runState ∧ t.steps = s.steps + 1 ∧ t.stepBudget = s.stepBudget ∧ t.ticksDue = s.ticksDue ∧
      (t.pc = s.pc + BitVec.ofNat 16 i.length ∨
        (i.mode = .relative ∧ ∃ b1, i.operandBytes = [b1] ∧ t.pc = branchTarget s.pc b1))

/-! ### Who reads and writes each register -/

/-- R21, R24: A is written by LDA, TXA and TYA only and read by STA, TAX and TAY only; SP is written by TXS only and read by
TSX only, so it addresses nothing: with any other value in the register, an instruction that does not read it does the
same to everything else. -/
def Obligations.AccumulatorAndStackPointerUse : Prop :=
  ∀ (i : Instr) (s : State) (v : Byte), ∃ t, exec i s = .next t ∧
    (i.mnemonic ∉ [.lda, .txa, .tya] → t.a = s.a) ∧
    (i.mnemonic ∉ [.sta, .tax, .tay] →
      exec i { s with a := v } = .next { t with a := if i.mnemonic ∈ [.lda, .txa, .tya] then t.a else v }) ∧
    (i.mnemonic ≠ .txs → t.sp = s.sp) ∧
    (i.mnemonic ≠ .tsx →
      exec i { s with sp := v } = .next { t with sp := if i.mnemonic = .txs then t.sp else v })

/-- R22, R23: X is written by LDX, TAX, TSX, INX and DEX only and read by STX, TXA, TXS, INX, DEX and the X-indexed modes
only; Y is written by LDY, TAY, INY and DEY only and read by STY, TYA, INY, DEY and the Y-indexed modes only. -/
def Obligations.IndexRegisterUse : Prop :=
  ∀ (i : Instr) (s : State) (v : Byte), ∃ t, exec i s = .next t ∧
    (i.mnemonic ∉ [.ldx, .tax, .tsx, .inx, .dex] → t.x = s.x) ∧
    (readsX i = false →
      exec i { s with x := v } = .next { t with x := if i.mnemonic ∈ [.ldx, .tax, .tsx] then t.x else v }) ∧
    (i.mnemonic ∉ [.ldy, .tay, .iny, .dey] → t.y = s.y) ∧
    (readsY i = false →
      exec i { s with y := v } = .next { t with y := if i.mnemonic ∈ [.ldy, .tay] then t.y else v })

/-- R37: the PPU counters are hidden: a CPU step neither reads nor writes them, so with other counters it does the same to
everything else and leaves them. -/
def Obligations.PpuCountersAreHiddenFromTheCpu : Prop :=
  ∀ (s t : State) (c l : Counter), cpuStep s = .next t →
    t.cycle = s.cycle ∧ t.scanline = s.scanline ∧
    cpuStep { s with cycle := c, scanline := l } = .next { t with cycle := c, scanline := l }

/-- R63, R210, R216: a tick and a CPU step that does not read 0x2002 commute: in either order they leave the same state. Both
are the bare functions here: after a step that ends the run no tick is enabled (R34, R201), and the tick on the right is then
the function alone, which no run applies. -/
def Obligations.TickCommutesWithAStepThatReadsNoStatus : Prop :=
  ∀ s : State, s.cpuReads 0x2002 = false → cpuStep s.tick = mapNext State.tick (cpuStep s)

/-! ### The PPU timing generator -/

/-- R210: one tick, case by case. It writes the counters and bit 7 of PPUSTATUS only, and none is enabled once the run has
ended. The first and the last case also take in counters above their ranges, which no run reaches and of which the spec says
nothing: there the count goes on modulo 512, which is the model's reading (assumption 6, DEDUCED). -/
def Obligations.TickAdvancesOneCycle : Prop :=
  (∀ s : State,
    (s.cycle ≠ 340 → s.tick = { s with cycle := s.cycle + 1 }) ∧
    (s.cycle = 340 → s.scanline = 240 →
      s.tick = { s with cycle := 0, scanline := 241, ppuStatus := s.ppuStatus ||| 0x80 }) ∧
    (s.cycle = 340 → s.scanline = 261 →
      s.tick = { s with cycle := 0, scanline := 0, ppuStatus := s.ppuStatus &&& 0x7F }) ∧
    (s.cycle = 340 → s.scanline ≠ 240 → s.scanline ≠ 261 →
      s.tick = { s with cycle := 0, scanline := s.scanline + 1 })) ∧
  (∀ (sched : Schedule) (s t : State), s.runState ≠ .running → stepWith sched s ≠ .next t)

/-- R215 (derived by the spec from R38 and R210 to R214, with `PPUSTATUS_RESET` = 0x00 of D8): the PPU's state after any
number of ticks from reset with no status read. -/
def Obligations.PpuStateAfterTicksFromReset : Prop :=
  ∀ t : Nat, State.ticks t State.reset = { State.reset with
    cycle := BitVec.ofNat 9 (t % 341), scanline := BitVec.ofNat 9 (t / 341 % 262),
    ppuStatus := if 241 ≤ t / 341 % 262 then 0x80 else 0x00 }

/-- R211 to R215: 89,342 ticks are one frame from any position: the counters come back, and with no status read VBL is then 1
exactly on scanlines 241 to 261. -/
def Obligations.FrameIs89342Ticks : Prop :=
  ∀ (s : State) (frame : Nat), frame = 341 * 262 → s.cycle.toNat ≤ 340 → s.scanline.toNat ≤ 261 →
    (State.ticks frame s).cycle = s.cycle ∧ (State.ticks frame s).scanline = s.scanline ∧
    (State.ticks frame s).vbl = decide (241 ≤ s.scanline.toNat)

/-- R213, R214, R261: over any action of any run, VBL is set only by the tick that enters scanline 241, and cleared only by
the tick that wraps the frame or by a CPU step that reads 0x2002, which always leaves it clear. -/
def Obligations.VblChangesOnlyAtItsEdgesAndReads : Prop :=
  ∀ (sched : Schedule) (s t : State), stepWith sched s = .next t →
    (s.vbl = false → t.vbl = true → 0 < s.ticksDue ∧ s.cycle = 340 ∧ s.scanline = 240) ∧
    (s.vbl = true → t.vbl = false → (0 < s.ticksDue ∧ s.cycle = 340 ∧ s.scanline = 261) ∨
      (s.ticksDue = 0 ∧ s.steps ≠ s.stepBudget ∧ s.cpuReads 0x2002 = true)) ∧
    (s.ticksDue = 0 → s.steps ≠ s.stepBudget → s.cpuReads 0x2002 = true → t.vbl = false)

/-! ### Runs -/

/-- The invariant holds at reset (its flag and status clauses are R38's values, decisions D5 and D8). -/
def Obligations.InvariantHoldsAtReset : Prop := State.reset.Inv

/-- R28, R36, R53, R112, R211 to R214, R254: every action of every run keeps the invariant: canonical memory, counters in
range, PPUSTATUS bits 6:0 zero, VBL only on lines 241 to 261, the unwritten flags as reset left them, N and Z not both set,
the budget not overrun, PC at the opcode that ended the run. -/
def Obligations.EveryActionKeepsTheInvariant : Prop :=
  (∀ (sched : Schedule) (s t : State), s.Inv → stepWith sched s = .next t → t.Inv) ∧
  (∀ s t : State, s.Inv → step s = .next t → t.Inv)

/-- R216, R217: a tick that is due is what a running machine does next (assumption 2), and the CPU's turn always comes: a
running machine with `n` ticks due takes exactly those ticks in its next `n` steps, and the CPU's registers and memory do not
move. -/
def Obligations.DueTicksRunOut : Prop :=
  (∀ (sched : Schedule) (s : State) (n : Nat), s.runState = .running → s.ticksDue = n + 1 →
    stepWith sched s = .next { s.tick with ticksDue := n }) ∧
  (∀ s : State, s.runState = .running →
    Sys2Proof.core.run s.ticksDue s = .next { State.ticks s.ticksDue s with ticksDue := 0 } ∧
    (State.ticks s.ticksDue s).mem = s.mem ∧ (State.ticks s.ticksDue s).pc = s.pc ∧
    (State.ticks s.ticksDue s).a = s.a ∧ (State.ticks s.ticksDue s).x = s.x ∧ (State.ticks s.ticksDue s).y = s.y ∧
    (State.ticks s.ticksDue s).sp = s.sp ∧ (State.ticks s.ticksDue s).p = s.p)

/-- R254: the only ways a run goes on are ticks and counted steps, so every run ends: from any running state whose budget is
not overrun, some number of steps reaches a final run state, whatever the schedule and the budget are. -/
def Obligations.EveryRunEndsWithinItsBudget : Prop :=
  ∀ s : State, s.runState = .running → s.steps ≤ s.stepBudget →
    ∃ (k : Nat) (t : State), Sys2Proof.core.run k s = .next t ∧ t.runState ≠ .running ∧ t.steps ≤ s.stepBudget

/-- R218: under the reference schedule exactly three ticks are due after each CPU step that does not end the run; it is one
schedule among those R216 allows (decision D15). -/
def Obligations.ReferenceScheduleOwesThreeTicks : Prop :=
  ∀ s t : State, s.ticksDue = 0 → s.steps ≠ s.stepBudget → stepWith referenceSchedule s = .next t →
    t.runState = .running → t.ticksDue = 3 ∧ t.steps = s.steps + 1

/-- R200, R255: an ended run yields its termination with the recorded value, and the spec's code for it is 1 for a halt, 2 for
an unsupported opcode and 3 for the budget (D26). -/
def Obligations.EndedRunYieldsItsTermination : Prop :=
  ∀ s : State,
    (s.termination = none ↔ s.runState = .running) ∧
    (∀ addr, s.runState = .halted addr → s.termination = some (.halted addr)) ∧
    (∀ op addr, s.runState = .unsupported op addr → s.termination = some (.unsupported op addr)) ∧
    (s.runState = .budgetExhausted → s.termination = some (.budgetExhausted s.steps)) ∧
    (∀ addr, s.runState = .halted addr → s.termination.map Termination.code = some 1) ∧
    (∀ op addr, s.runState = .unsupported op addr → s.termination.map Termination.code = some 2) ∧
    (s.runState = .budgetExhausted → s.termination.map Termination.code = some 3)

/-! ### Launch and reset -/

/-- R250, R251: what the two resets leave in any machine: cleared registers, SP = 0xFD, P = 0x34, PPUSTATUS = 0x00 (decisions
D4, D5, D8), both counters 0, PC the little-endian vector at 0xFFFC and 0xFFFD (D3), memory untouched. -/
def Obligations.ResetSetsTheListedValues : Prop :=
  ∀ s : State, s.ppuReset.cpuReset = { s with
    a := 0x00, x := 0x00, y := 0x00, sp := 0xFD, p := 0x34,
    pc := joinBytes (s.mem.read 0xFFFD) (s.mem.read 0xFFFC),
    ppuStatus := 0x00, cycle := 0, scanline := 0, runState := .running, steps := 0 }

/-- R38: the model's `State.reset` is the reset procedure applied to a memory that lists nothing (assumptions 1 and 4), with
the free values for the budget and the first ticks (assumptions 2 and 3). -/
def Obligations.StateResetIsTheResetProcedure : Prop :=
  State.reset = State.afterReset [] Config.stepBudget (Config.ticksAfterStep 0)

/-- R242 to R244: the header's fields are bytes 4 and 5 and bit 2 of byte 6, which puts the program at 528 or at 16; the program
load fails exactly when the size is neither one nor two units or the file is too short from that offset (no allocation
fails, D29). -/
def Obligations.ProgramLoadFailsExactlyWhenListed : Prop :=
  ∀ file : List Byte,
    (∀ (k : Nat) (b : Byte), file[k]? = some b → fileByte file k = b) ∧
    (∀ b : Byte, file[4]? = some b → prgUnits file = b.toNat) ∧
    (∀ b : Byte, file[5]? = some b → chrUnits file = b.toNat) ∧
    (∀ b : Byte, file[6]? = some b → prgOffset file = if b.getLsbD 2 then 528 else 16) ∧
    ∀ m : Memory, loadProgram file m = none ↔
      ((prgUnits file ≠ 1 ∧ prgUnits file ≠ 2) ∨ file.length < prgOffset file + 16384 * prgUnits file)

/-- R245, R246: a two-unit image fills 0x8000 to 0xFFFF from the file offset of the program, and leaves every cell below. -/
def Obligations.TwoUnitImageFillsTheWindow : Prop :=
  ∀ (file : List Byte) (m : Memory), prgUnits file = 2 → prgOffset file + 32768 ≤ file.length →
    ∃ m', loadProgram file m = some m' ∧
      (∀ i, i < 32768 → m'.read (BitVec.ofNat 16 (0x8000 + i)) = fileByte file (prgOffset file + i)) ∧
      (∀ a : Addr, a.toNat < 0x8000 → m'.read a = m.read a)

/-- R245, R247: a one-unit image appears at 0x8000 and again at 0xC000, each cell its own, and every cell below 0x8000 stays. -/
def Obligations.OneUnitImageIsMirrored : Prop :=
  ∀ (file : List Byte) (m : Memory), prgUnits file = 1 → prgOffset file + 16384 ≤ file.length →
    ∃ m', loadProgram file m = some m' ∧
      (∀ i, i < 16384 → m'.read (BitVec.ofNat 16 (0x8000 + i)) = fileByte file (prgOffset file + i) ∧
        m'.read (BitVec.ofNat 16 (0xC000 + i)) = fileByte file (prgOffset file + i)) ∧
      (∀ a : Addr, a.toNat < 0x8000 → m'.read a = m.read a)

/-- R240, R241, R249: the setup failures in the order of the stages, the first that fails being the one reported, with
nothing installed before the program load succeeds; when every stage succeeds the machine is ready, reset over the loaded
memory. Codes 10 to 13 are the spec's labels (D26). A failed pattern load leaves the program in memory (assumption 9). -/
def Obligations.SetupFailuresComeInStageOrder : Prop :=
  ∀ (initMem : Memory) (budget : Nat) (sched : Schedule),
    launch none initMem budget sched = .failed .setupFileOpen initMem ∧
    (∀ file : List Byte,
      ((file.length < 16 ∨ file.take 4 ≠ [0x4E, 0x45, 0x53, 0x1A]) →
        launch (some file) initMem budget sched = .failed .setupHeaderInvalid initMem) ∧
      (16 ≤ file.length → file.take 4 = [0x4E, 0x45, 0x53, 0x1A] →
        (loadProgram file initMem = none →
          launch (some file) initMem budget sched = .failed .setupProgramLoad initMem) ∧
        (∀ m, loadProgram file initMem = some m → loadPatternData file = none →
          launch (some file) initMem budget sched = .failed .setupPatternLoad m) ∧
        (∀ m pattern, loadProgram file initMem = some m → loadPatternData file = some pattern →
          launch (some file) initMem budget sched = .ready (State.afterReset m budget (sched 0)) pattern))) ∧
    Termination.setupFileOpen.code = 10 ∧ Termination.setupHeaderInvalid.code = 11 ∧
    Termination.setupProgramLoad.code = 12 ∧ Termination.setupPatternLoad.code = 13

/-- R240, R250 to R253: a launch that succeeds leaves a running machine in the invariant, with the loaded memory, PC from the
image's own last bytes, and the budget and first ticks it was given. -/
def Obligations.LaunchedMachineIsReadyAndInvariant : Prop :=
  ∀ (file : List Byte) (initMem : Memory) (budget : Nat) (sched : Schedule) (s : State) (pattern : List Byte),
    initMem.wf = true → launch (some file) initMem budget sched = .ready s pattern →
    s.Inv ∧ s.runState = .running ∧ s.steps = 0 ∧ s.stepBudget = budget ∧ s.ticksDue = sched 0 ∧
    loadProgram file initMem = some s.mem ∧
    (prgUnits file = 1 → s.pc = joinBytes (fileByte file (prgOffset file + 0x3FFD))
      (fileByte file (prgOffset file + 0x3FFC))) ∧
    (prgUnits file = 2 → s.pc = joinBytes (fileByte file (prgOffset file + 0x7FFD))
      (fileByte file (prgOffset file + 0x7FFC)))

/-- R248: the pattern data is one zero-filled unit when the header asks for none, whatever the file's length, and otherwise the
asked-for bytes right after the program, failing exactly when the file is too short for them. -/
def Obligations.PatternDataFollowsTheProgram : Prop :=
  ∀ (file : List Byte) (offset : Nat), offset = prgOffset file + 16384 * prgUnits file →
    (chrUnits file = 0 → loadPatternData file = some (List.replicate 8192 0x00)) ∧
    (chrUnits file ≠ 0 → (loadPatternData file = none ↔ file.length < offset + 8192 * chrUnits file)) ∧
    (∀ pattern, chrUnits file ≠ 0 → loadPatternData file = some pattern →
      pattern.length = 8192 * chrUnits file ∧ ∀ k, k < 8192 * chrUnits file → pattern[k]? = file[offset + k]?)
end

