-- ==== Sys2Proof/Laws/Decode.lean ====
section
/-! SUPPORT. Splitting and joining bytes, and what the opcode table gives for each admitted opcode. -/

namespace Sys2Proof

theorem joinBytes_getLsbD (hi lo : Byte) (i : Nat) :
    (joinBytes hi lo).getLsbD i = if i < 8 then lo.getLsbD i else hi.getLsbD (i - 8) :=
  BitVec.getLsbD_append

@[simp] theorem lowByte_joinBytes (hi lo : Byte) : lowByte (joinBytes hi lo) = lo := by
  apply BitVec.eq_of_getLsbD_eq
  intro i h
  simp only [lowByte, BitVec.getLsbD_extractLsb', joinBytes_getLsbD]
  simp [h]

@[simp] theorem highByte_joinBytes (hi lo : Byte) : highByte (joinBytes hi lo) = hi := by
  apply BitVec.eq_of_getLsbD_eq
  intro i h
  simp only [highByte, BitVec.getLsbD_extractLsb', joinBytes_getLsbD]
  simp [h]

@[simp] theorem joinBytes_high_low (a : Addr) : joinBytes (highByte a) (lowByte a) = a := by
  apply BitVec.eq_of_getLsbD_eq
  intro i h
  simp only [joinBytes_getLsbD, highByte, lowByte, BitVec.getLsbD_extractLsb']
  by_cases h8 : i < 8
  · simp [h8]
  · have h1 : i - 8 < 8 := by omega
    have h2 : 8 + (i - 8) = i := by omega
    simp only [h8, if_false, h1, h2, decide_true, Bool.true_and]

theorem joinBytes_toNat (hi lo : Byte) : (joinBytes hi lo).toNat = 256 * hi.toNat + lo.toNat := by
  have h : (joinBytes hi lo).toNat = hi.toNat <<< 8 ||| lo.toNat := BitVec.toNat_append hi lo
  rw [h, Nat.shiftLeft_eq, Nat.mul_comm, Nat.two_pow_add_eq_or_of_lt (i := 8) lo.isLt]

/-- No two rows of the opcode table share an opcode. -/
theorem opcodeTable_distinct : (opcodeTable.map Row.opcode).Nodup := by decide

/-- The table has the 54 rows of R93. -/
theorem opcodeTable_length : opcodeTable.length = 54 := by decide

/-- What the encoder and the form say of an instruction that a row of the table builds. -/
def Row.Sound (r : Row) : Prop :=
  ∀ b1 b2 : Byte, (r.build b1 b2).opcode = r.opcode ∧ (r.build b1 b2).form = (r.mnemonic, r.mode) ∧
    (r.build b1 b2).operandBytes = [b1, b2].take r.mode.operandCount

/-- Every row of the table agrees with the encoder and the form. -/
theorem opcodeTable_sound : ∀ r ∈ opcodeTable, r.Sound := by
  simp only [opcodeTable, List.forall_mem_append]
  refine ⟨⟨⟨⟨⟨?_, ?_⟩, ?_⟩, ?_⟩, ?_⟩, ?_⟩ <;>
    simp [loadRows, storeRows, transferRows, countRows, branchRows, haltRows, Row.Sound, Instr.opcode, Instr.form,
      Instr.operandBytes, Mode.operandCount]

/-- A decoded opcode is the row of the table with that opcode. -/
theorem decodeOpcode_some {op : Byte} {r : Row} (h : decodeOpcode op = some r) : r ∈ opcodeTable ∧ r.opcode = op :=
  ⟨List.mem_of_find?_eq_some h, by simpa using List.find?_some h⟩

/-- An instruction's own opcode decodes to a row that builds it back. -/
theorem decodeOpcode_opcode (i : Instr) : ∃ r, decodeOpcode i.opcode = some r ∧ r.mode = i.mode := by
  cases i <;> exact ⟨_, rfl, rfl⟩

end Sys2Proof
end

