-- ==== Sys2Proof/Laws/Flags.lean ====
section
/-! SUPPORT. What a flag write and `UpdateNZ` do to every flag, and what setting and clearing VBL do. -/

namespace Sys2Proof.Machine

theorem flagOf_setFlag (p : Byte) (f g : Flag) (b : Bool) :
    flagOf (setFlag p f b) g = if g = f then b else flagOf p g := by
  cases b <;> cases f <;> cases g <;> simp [flagOf, setFlag, Flag.bit]

@[simp] theorem flagOf_setFlag_same (p : Byte) (f : Flag) (b : Bool) : flagOf (setFlag p f b) f = b := by
  simp [flagOf_setFlag]

/-- `UpdateNZ` on every flag (R29). -/
theorem flagOf_updateNZ (v p : Byte) (f : Flag) :
    flagOf (updateNZ v p) f =
      if f = .negative then v.getLsbD 7 else if f = .zero then v == 0 else flagOf p f := by
  simp [updateNZ, flagOf_setFlag]

/-- The bits of P that no instruction writes (R28). -/
theorem updateNZ_other_bits (v p : Byte) : updateNZ v p &&& 125#8 = p &&& 125#8 := by
  apply BitVec.eq_of_getLsbD_eq
  intro i hi
  unfold updateNZ setFlag
  interval_cases i <;> split <;> split <;> simp [Flag.bit]

/-- This hardware's TXS updates the flags (D19). -/
@[simp] theorem txsUpdatesFlags_eq : Config.txsUpdatesFlags = true := rfl

@[simp] theorem clearVbl_getElem (v : Byte) : (clearVbl v)[7] = false := by
  simp [clearVbl]

@[simp] theorem setVbl_getElem (v : Byte) : (setVbl v)[7] = true := by
  simp [setVbl]

theorem clearVbl_vbl (v : Byte) : (clearVbl v).getLsbD 7 = false := by
  simp [clearVbl]

theorem setVbl_vbl (v : Byte) : (setVbl v).getLsbD 7 = true := by
  simp [setVbl]

@[simp] theorem clearVbl_low (v : Byte) : clearVbl v &&& 127#8 = v &&& 127#8 := by
  simp [clearVbl, BitVec.and_assoc]

@[simp] theorem setVbl_low (v : Byte) : setVbl v &&& 127#8 = v &&& 127#8 := by
  apply BitVec.eq_of_getLsbD_eq
  intro i hi
  unfold setVbl
  interval_cases i <;> simp

@[simp] theorem clearVbl_idem (v : Byte) : clearVbl (clearVbl v) = clearVbl v := by
  simp [clearVbl, BitVec.and_assoc]

end Sys2Proof.Machine
end

