-- ==== Sys2Proof/Laws/Memory.lean ====
section
/-! SUPPORT. What a memory operation does to every cell, and that each keeps the canonical form. -/

namespace Sys2Proof.Machine

@[simp] theorem Memory.lookup_nil (n : Nat) : Memory.lookup [] n = Config.unwrittenByte := rfl

theorem Memory.lookup_cons (k : Nat) (v : Byte) (m : Memory) (n : Nat) :
    Memory.lookup ((k, v) :: m) n = if k = n then v else Memory.lookup m n := rfl

@[simp] theorem Memory.lookup_erase_same (m : Memory) (n : Nat) :
    (m.erase n).lookup n = Config.unwrittenByte := by
  induction m with
  | nil => rfl
  | cons c m ih =>
    obtain ⟨k, v⟩ := c
    by_cases h : k = n
    · simpa [Memory.erase, h] using ih
    · simpa [Memory.erase, h, Memory.lookup_cons] using ih

theorem Memory.lookup_erase_other (m : Memory) {n j : Nat} (h : j ≠ n) : (m.erase n).lookup j = m.lookup j := by
  induction m with
  | nil => rfl
  | cons c m ih =>
    obtain ⟨k, v⟩ := c
    by_cases hk : k = n
    · have : k ≠ j := by omega
      simpa [Memory.erase, hk, Memory.lookup_cons, h.symm] using ih
    · by_cases hj : k = j
      · simp [Memory.erase, Memory.lookup_cons, hj, h]
      · simpa [Memory.erase, hk, hj, Memory.lookup_cons] using ih

/-- Looking up a placed cell, when the list has no other cell at its address. -/
theorem Memory.lookup_place (m : Memory) (n : Nat) (v : Byte) (j : Nat) (h : ∀ c ∈ m, c.1 ≠ n) :
    (m.place n v).lookup j = if n = j then v else m.lookup j := by
  induction m with
  | nil => rfl
  | cons c m ih =>
    obtain ⟨k, w⟩ := c
    have hk : k ≠ n := h (k, w) (by simp)
    have ih := ih (fun c hc => h c (by simp [hc]))
    by_cases hlt : n < k
    · simp [Memory.place, hlt, Memory.lookup_cons]
    · by_cases hj : n = j
      · subst hj; simp [Memory.place, hlt, Memory.lookup_cons, hk, ih]
      · simp [Memory.place, hlt, Memory.lookup_cons, hj, ih]

theorem Memory.erase_ne (m : Memory) (n : Nat) : ∀ c ∈ m.erase n, c.1 ≠ n := by
  intro c hc
  simpa [Memory.erase] using (List.mem_filter.mp hc).2

/-- Everything a write does to the cells (R50, R53). -/
theorem Memory.read_write (m : Memory) (a b : Addr) (v : Byte) :
    (m.write a v).read b = if b = a then v else m.read b := by
  unfold Memory.read Memory.write
  by_cases hab : b = a
  · subst hab
    split
    · simp_all
    · simp [Memory.lookup_place _ _ _ _ (Memory.erase_ne m b.toNat)]
  · have hn : b.toNat ≠ a.toNat := fun h => hab (BitVec.eq_of_toNat_eq h)
    rw [if_neg hab]
    split
    · simp [Memory.lookup_erase_other m hn]
    · simp [Memory.lookup_place _ _ _ _ (Memory.erase_ne m a.toNat), hn.symm, Memory.lookup_erase_other m hn]

@[simp] theorem Memory.read_write_same (m : Memory) (a : Addr) (v : Byte) : (m.write a v).read a = v := by
  simp [Memory.read_write]

theorem Memory.read_write_other (m : Memory) {a b : Addr} (v : Byte) (h : b ≠ a) :
    (m.write a v).read b = m.read b := by
  simp [Memory.read_write, h]

/-! ### The canonical form -/

theorem Memory.wf_cons (c : Host.Cell) (m : Memory) :
    Memory.wf (c :: m) = true ↔
      (∀ d ∈ m, c.1 < d.1) ∧ c.1 < 65536 ∧ c.2 ≠ Config.unwrittenByte ∧ m.wf = true := by
  simp [Memory.wf, Memory.rising]
  tauto

@[simp] theorem Memory.wf_nil : Memory.wf [] = true := rfl

theorem Memory.wf_erase (m : Memory) (n : Nat) (h : m.wf = true) : (m.erase n).wf = true := by
  induction m with
  | nil => rfl
  | cons c m ih =>
    obtain ⟨hlt, hb, hv, hm⟩ := (Memory.wf_cons c m).mp h
    by_cases hk : c.1 = n
    · simpa [Memory.erase, hk] using ih hm
    · have he : Memory.erase (c :: m) n = c :: Memory.erase m n := by simp [Memory.erase, hk]
      rw [he, Memory.wf_cons]
      exact ⟨fun d hd => hlt d (List.mem_filter.mp hd).1, hb, hv, ih hm⟩

theorem Memory.mem_place (m : Memory) (n : Nat) (v : Byte) (c : Host.Cell) (h : c ∈ m.place n v) :
    c = (n, v) ∨ c ∈ m := by
  induction m with
  | nil => simpa [Memory.place] using h
  | cons d m ih =>
    obtain ⟨k, w⟩ := d
    by_cases hlt : n < k
    · simpa [Memory.place, hlt] using h
    · simp only [Memory.place, hlt, if_false, List.mem_cons] at h ⊢
      rcases h with h | h
      · exact .inr (.inl h)
      · rcases ih h with h | h <;> simp [h]

theorem Memory.wf_place (m : Memory) (n : Nat) (v : Byte) (h : m.wf = true) (hn : n < 65536)
    (hv : v ≠ Config.unwrittenByte) (hne : ∀ c ∈ m, c.1 ≠ n) : (m.place n v).wf = true := by
  induction m with
  | nil => exact (Memory.wf_cons _ _).mpr ⟨by simp, hn, hv, rfl⟩
  | cons c m ih =>
    obtain ⟨k, w⟩ := c
    obtain ⟨hlt, hb, hw, hm⟩ := (Memory.wf_cons (k, w) m).mp h
    have hk : k ≠ n := hne (k, w) (by simp)
    by_cases hnk : n < k
    · simp only [Memory.place, hnk, if_true]
      refine (Memory.wf_cons _ _).mpr ⟨?_, hn, hv, h⟩
      intro d hd
      rcases List.mem_cons.mp hd with rfl | hd
      · exact hnk
      · exact Nat.lt_trans hnk (hlt d hd)
    · simp only [Memory.place, hnk, if_false]
      refine (Memory.wf_cons _ _).mpr ⟨?_, hb, hw, ih hm (fun c hc => hne c (by simp [hc]))⟩
      intro d hd
      rcases Memory.mem_place m n v d hd with rfl | hd
      · exact Nat.lt_of_le_of_ne (Nat.le_of_not_lt hnk) hk
      · exact hlt d hd

/-- A write keeps the canonical form. -/
theorem Memory.wf_write (m : Memory) (a : Addr) (v : Byte) (h : m.wf = true) : (m.write a v).wf = true := by
  unfold Memory.write
  split
  · exact Memory.wf_erase m _ h
  · rename_i hv
    exact Memory.wf_place _ _ _ (Memory.wf_erase m _ h) a.isLt hv (Memory.erase_ne m _)

/-- Installing an image keeps the canonical form. -/
theorem Memory.wf_install (bytes : List Byte) (m : Memory) (base : Nat) (h : m.wf = true) :
    (m.install base bytes).wf = true := by
  induction bytes generalizing m base with
  | nil => exact h
  | cons b bytes ih => exact ih _ _ (Memory.wf_write m _ b h)

end Sys2Proof.Machine
end

