-- ==== Sys2Proof/Laws/State.lean ====
section
/-! SUPPORT. One lemma per field per named update of the state, so that no proof unfolds a record update. -/

namespace Sys2Proof.Machine

/-! ### `setA` -/

@[simp] theorem State.setA_a (s : State) (v : Byte) : (s.setA v).a = v := rfl
@[simp] theorem State.setA_x (s : State) (v : Byte) : (s.setA v).x = s.x := rfl
@[simp] theorem State.setA_y (s : State) (v : Byte) : (s.setA v).y = s.y := rfl
@[simp] theorem State.setA_sp (s : State) (v : Byte) : (s.setA v).sp = s.sp := rfl
@[simp] theorem State.setA_p (s : State) (v : Byte) : (s.setA v).p = s.p := rfl
@[simp] theorem State.setA_pc (s : State) (v : Byte) : (s.setA v).pc = s.pc := rfl
@[simp] theorem State.setA_mem (s : State) (v : Byte) : (s.setA v).mem = s.mem := rfl
@[simp] theorem State.setA_ppuStatus (s : State) (v : Byte) : (s.setA v).ppuStatus = s.ppuStatus := rfl
@[simp] theorem State.setA_cycle (s : State) (v : Byte) : (s.setA v).cycle = s.cycle := rfl
@[simp] theorem State.setA_scanline (s : State) (v : Byte) : (s.setA v).scanline = s.scanline := rfl
@[simp] theorem State.setA_runState (s : State) (v : Byte) : (s.setA v).runState = s.runState := rfl
@[simp] theorem State.setA_steps (s : State) (v : Byte) : (s.setA v).steps = s.steps := rfl
@[simp] theorem State.setA_stepBudget (s : State) (v : Byte) : (s.setA v).stepBudget = s.stepBudget := rfl
@[simp] theorem State.setA_ticksDue (s : State) (v : Byte) : (s.setA v).ticksDue = s.ticksDue := rfl

/-! ### `setX` -/

@[simp] theorem State.setX_a (s : State) (v : Byte) : (s.setX v).a = s.a := rfl
@[simp] theorem State.setX_x (s : State) (v : Byte) : (s.setX v).x = v := rfl
@[simp] theorem State.setX_y (s : State) (v : Byte) : (s.setX v).y = s.y := rfl
@[simp] theorem State.setX_sp (s : State) (v : Byte) : (s.setX v).sp = s.sp := rfl
@[simp] theorem State.setX_p (s : State) (v : Byte) : (s.setX v).p = s.p := rfl
@[simp] theorem State.setX_pc (s : State) (v : Byte) : (s.setX v).pc = s.pc := rfl
@[simp] theorem State.setX_mem (s : State) (v : Byte) : (s.setX v).mem = s.mem := rfl
@[simp] theorem State.setX_ppuStatus (s : State) (v : Byte) : (s.setX v).ppuStatus = s.ppuStatus := rfl
@[simp] theorem State.setX_cycle (s : State) (v : Byte) : (s.setX v).cycle = s.cycle := rfl
@[simp] theorem State.setX_scanline (s : State) (v : Byte) : (s.setX v).scanline = s.scanline := rfl
@[simp] theorem State.setX_runState (s : State) (v : Byte) : (s.setX v).runState = s.runState := rfl
@[simp] theorem State.setX_steps (s : State) (v : Byte) : (s.setX v).steps = s.steps := rfl
@[simp] theorem State.setX_stepBudget (s : State) (v : Byte) : (s.setX v).stepBudget = s.stepBudget := rfl
@[simp] theorem State.setX_ticksDue (s : State) (v : Byte) : (s.setX v).ticksDue = s.ticksDue := rfl

/-! ### `setY` -/

@[simp] theorem State.setY_a (s : State) (v : Byte) : (s.setY v).a = s.a := rfl
@[simp] theorem State.setY_x (s : State) (v : Byte) : (s.setY v).x = s.x := rfl
@[simp] theorem State.setY_y (s : State) (v : Byte) : (s.setY v).y = v := rfl
@[simp] theorem State.setY_sp (s : State) (v : Byte) : (s.setY v).sp = s.sp := rfl
@[simp] theorem State.setY_p (s : State) (v : Byte) : (s.setY v).p = s.p := rfl
@[simp] theorem State.setY_pc (s : State) (v : Byte) : (s.setY v).pc = s.pc := rfl
@[simp] theorem State.setY_mem (s : State) (v : Byte) : (s.setY v).mem = s.mem := rfl
@[simp] theorem State.setY_ppuStatus (s : State) (v : Byte) : (s.setY v).ppuStatus = s.ppuStatus := rfl
@[simp] theorem State.setY_cycle (s : State) (v : Byte) : (s.setY v).cycle = s.cycle := rfl
@[simp] theorem State.setY_scanline (s : State) (v : Byte) : (s.setY v).scanline = s.scanline := rfl
@[simp] theorem State.setY_runState (s : State) (v : Byte) : (s.setY v).runState = s.runState := rfl
@[simp] theorem State.setY_steps (s : State) (v : Byte) : (s.setY v).steps = s.steps := rfl
@[simp] theorem State.setY_stepBudget (s : State) (v : Byte) : (s.setY v).stepBudget = s.stepBudget := rfl
@[simp] theorem State.setY_ticksDue (s : State) (v : Byte) : (s.setY v).ticksDue = s.ticksDue := rfl

/-! ### `setSp` -/

@[simp] theorem State.setSp_a (s : State) (v : Byte) : (s.setSp v).a = s.a := rfl
@[simp] theorem State.setSp_x (s : State) (v : Byte) : (s.setSp v).x = s.x := rfl
@[simp] theorem State.setSp_y (s : State) (v : Byte) : (s.setSp v).y = s.y := rfl
@[simp] theorem State.setSp_sp (s : State) (v : Byte) : (s.setSp v).sp = v := rfl
@[simp] theorem State.setSp_p (s : State) (v : Byte) : (s.setSp v).p = s.p := rfl
@[simp] theorem State.setSp_pc (s : State) (v : Byte) : (s.setSp v).pc = s.pc := rfl
@[simp] theorem State.setSp_mem (s : State) (v : Byte) : (s.setSp v).mem = s.mem := rfl
@[simp] theorem State.setSp_ppuStatus (s : State) (v : Byte) : (s.setSp v).ppuStatus = s.ppuStatus := rfl
@[simp] theorem State.setSp_cycle (s : State) (v : Byte) : (s.setSp v).cycle = s.cycle := rfl
@[simp] theorem State.setSp_scanline (s : State) (v : Byte) : (s.setSp v).scanline = s.scanline := rfl
@[simp] theorem State.setSp_runState (s : State) (v : Byte) : (s.setSp v).runState = s.runState := rfl
@[simp] theorem State.setSp_steps (s : State) (v : Byte) : (s.setSp v).steps = s.steps := rfl
@[simp] theorem State.setSp_stepBudget (s : State) (v : Byte) : (s.setSp v).stepBudget = s.stepBudget := rfl
@[simp] theorem State.setSp_ticksDue (s : State) (v : Byte) : (s.setSp v).ticksDue = s.ticksDue := rfl

/-! ### `setNZ` -/

@[simp] theorem State.setNZ_a (s : State) (v : Byte) : (s.setNZ v).a = s.a := rfl
@[simp] theorem State.setNZ_x (s : State) (v : Byte) : (s.setNZ v).x = s.x := rfl
@[simp] theorem State.setNZ_y (s : State) (v : Byte) : (s.setNZ v).y = s.y := rfl
@[simp] theorem State.setNZ_sp (s : State) (v : Byte) : (s.setNZ v).sp = s.sp := rfl
@[simp] theorem State.setNZ_p (s : State) (v : Byte) : (s.setNZ v).p = updateNZ v s.p := rfl
@[simp] theorem State.setNZ_pc (s : State) (v : Byte) : (s.setNZ v).pc = s.pc := rfl
@[simp] theorem State.setNZ_mem (s : State) (v : Byte) : (s.setNZ v).mem = s.mem := rfl
@[simp] theorem State.setNZ_ppuStatus (s : State) (v : Byte) : (s.setNZ v).ppuStatus = s.ppuStatus := rfl
@[simp] theorem State.setNZ_cycle (s : State) (v : Byte) : (s.setNZ v).cycle = s.cycle := rfl
@[simp] theorem State.setNZ_scanline (s : State) (v : Byte) : (s.setNZ v).scanline = s.scanline := rfl
@[simp] theorem State.setNZ_runState (s : State) (v : Byte) : (s.setNZ v).runState = s.runState := rfl
@[simp] theorem State.setNZ_steps (s : State) (v : Byte) : (s.setNZ v).steps = s.steps := rfl
@[simp] theorem State.setNZ_stepBudget (s : State) (v : Byte) : (s.setNZ v).stepBudget = s.stepBudget := rfl
@[simp] theorem State.setNZ_ticksDue (s : State) (v : Byte) : (s.setNZ v).ticksDue = s.ticksDue := rfl

/-! ### `putA` -/

@[simp] theorem State.putA_a (s : State) (v : Byte) : (s.putA v).a = v := rfl
@[simp] theorem State.putA_x (s : State) (v : Byte) : (s.putA v).x = s.x := rfl
@[simp] theorem State.putA_y (s : State) (v : Byte) : (s.putA v).y = s.y := rfl
@[simp] theorem State.putA_sp (s : State) (v : Byte) : (s.putA v).sp = s.sp := rfl
@[simp] theorem State.putA_p (s : State) (v : Byte) : (s.putA v).p = updateNZ v s.p := rfl
@[simp] theorem State.putA_pc (s : State) (v : Byte) : (s.putA v).pc = s.pc := rfl
@[simp] theorem State.putA_mem (s : State) (v : Byte) : (s.putA v).mem = s.mem := rfl
@[simp] theorem State.putA_ppuStatus (s : State) (v : Byte) : (s.putA v).ppuStatus = s.ppuStatus := rfl
@[simp] theorem State.putA_cycle (s : State) (v : Byte) : (s.putA v).cycle = s.cycle := rfl
@[simp] theorem State.putA_scanline (s : State) (v : Byte) : (s.putA v).scanline = s.scanline := rfl
@[simp] theorem State.putA_runState (s : State) (v : Byte) : (s.putA v).runState = s.runState := rfl
@[simp] theorem State.putA_steps (s : State) (v : Byte) : (s.putA v).steps = s.steps := rfl
@[simp] theorem State.putA_stepBudget (s : State) (v : Byte) : (s.putA v).stepBudget = s.stepBudget := rfl
@[simp] theorem State.putA_ticksDue (s : State) (v : Byte) : (s.putA v).ticksDue = s.ticksDue := rfl

/-! ### `putX` -/

@[simp] theorem State.putX_a (s : State) (v : Byte) : (s.putX v).a = s.a := rfl
@[simp] theorem State.putX_x (s : State) (v : Byte) : (s.putX v).x = v := rfl
@[simp] theorem State.putX_y (s : State) (v : Byte) : (s.putX v).y = s.y := rfl
@[simp] theorem State.putX_sp (s : State) (v : Byte) : (s.putX v).sp = s.sp := rfl
@[simp] theorem State.putX_p (s : State) (v : Byte) : (s.putX v).p = updateNZ v s.p := rfl
@[simp] theorem State.putX_pc (s : State) (v : Byte) : (s.putX v).pc = s.pc := rfl
@[simp] theorem State.putX_mem (s : State) (v : Byte) : (s.putX v).mem = s.mem := rfl
@[simp] theorem State.putX_ppuStatus (s : State) (v : Byte) : (s.putX v).ppuStatus = s.ppuStatus := rfl
@[simp] theorem State.putX_cycle (s : State) (v : Byte) : (s.putX v).cycle = s.cycle := rfl
@[simp] theorem State.putX_scanline (s : State) (v : Byte) : (s.putX v).scanline = s.scanline := rfl
@[simp] theorem State.putX_runState (s : State) (v : Byte) : (s.putX v).runState = s.runState := rfl
@[simp] theorem State.putX_steps (s : State) (v : Byte) : (s.putX v).steps = s.steps := rfl
@[simp] theorem State.putX_stepBudget (s : State) (v : Byte) : (s.putX v).stepBudget = s.stepBudget := rfl
@[simp] theorem State.putX_ticksDue (s : State) (v : Byte) : (s.putX v).ticksDue = s.ticksDue := rfl

/-! ### `putY` -/

@[simp] theorem State.putY_a (s : State) (v : Byte) : (s.putY v).a = s.a := rfl
@[simp] theorem State.putY_x (s : State) (v : Byte) : (s.putY v).x = s.x := rfl
@[simp] theorem State.putY_y (s : State) (v : Byte) : (s.putY v).y = v := rfl
@[simp] theorem State.putY_sp (s : State) (v : Byte) : (s.putY v).sp = s.sp := rfl
@[simp] theorem State.putY_p (s : State) (v : Byte) : (s.putY v).p = updateNZ v s.p := rfl
@[simp] theorem State.putY_pc (s : State) (v : Byte) : (s.putY v).pc = s.pc := rfl
@[simp] theorem State.putY_mem (s : State) (v : Byte) : (s.putY v).mem = s.mem := rfl
@[simp] theorem State.putY_ppuStatus (s : State) (v : Byte) : (s.putY v).ppuStatus = s.ppuStatus := rfl
@[simp] theorem State.putY_cycle (s : State) (v : Byte) : (s.putY v).cycle = s.cycle := rfl
@[simp] theorem State.putY_scanline (s : State) (v : Byte) : (s.putY v).scanline = s.scanline := rfl
@[simp] theorem State.putY_runState (s : State) (v : Byte) : (s.putY v).runState = s.runState := rfl
@[simp] theorem State.putY_steps (s : State) (v : Byte) : (s.putY v).steps = s.steps := rfl
@[simp] theorem State.putY_stepBudget (s : State) (v : Byte) : (s.putY v).stepBudget = s.stepBudget := rfl
@[simp] theorem State.putY_ticksDue (s : State) (v : Byte) : (s.putY v).ticksDue = s.ticksDue := rfl

/-! ### `memWrite` -/

@[simp] theorem State.memWrite_a (s : State) (ad : Addr) (v : Byte) : (s.memWrite ad v).a = s.a := rfl
@[simp] theorem State.memWrite_x (s : State) (ad : Addr) (v : Byte) : (s.memWrite ad v).x = s.x := rfl
@[simp] theorem State.memWrite_y (s : State) (ad : Addr) (v : Byte) : (s.memWrite ad v).y = s.y := rfl
@[simp] theorem State.memWrite_sp (s : State) (ad : Addr) (v : Byte) : (s.memWrite ad v).sp = s.sp := rfl
@[simp] theorem State.memWrite_p (s : State) (ad : Addr) (v : Byte) : (s.memWrite ad v).p = s.p := rfl
@[simp] theorem State.memWrite_pc (s : State) (ad : Addr) (v : Byte) : (s.memWrite ad v).pc = s.pc := rfl
@[simp] theorem State.memWrite_mem (s : State) (ad : Addr) (v : Byte) : (s.memWrite ad v).mem = s.mem.write ad v := rfl
@[simp] theorem State.memWrite_ppuStatus (s : State) (ad : Addr) (v : Byte) : (s.memWrite ad v).ppuStatus = s.ppuStatus := rfl
@[simp] theorem State.memWrite_cycle (s : State) (ad : Addr) (v : Byte) : (s.memWrite ad v).cycle = s.cycle := rfl
@[simp] theorem State.memWrite_scanline (s : State) (ad : Addr) (v : Byte) : (s.memWrite ad v).scanline = s.scanline := rfl
@[simp] theorem State.memWrite_runState (s : State) (ad : Addr) (v : Byte) : (s.memWrite ad v).runState = s.runState := rfl
@[simp] theorem State.memWrite_steps (s : State) (ad : Addr) (v : Byte) : (s.memWrite ad v).steps = s.steps := rfl
@[simp] theorem State.memWrite_stepBudget (s : State) (ad : Addr) (v : Byte) : (s.memWrite ad v).stepBudget = s.stepBudget := rfl
@[simp] theorem State.memWrite_ticksDue (s : State) (ad : Addr) (v : Byte) : (s.memWrite ad v).ticksDue = s.ticksDue := rfl

/-! ### `retire` -/

@[simp] theorem State.retire_a (s : State) (len : Addr) : (s.retire len).a = s.a := rfl
@[simp] theorem State.retire_x (s : State) (len : Addr) : (s.retire len).x = s.x := rfl
@[simp] theorem State.retire_y (s : State) (len : Addr) : (s.retire len).y = s.y := rfl
@[simp] theorem State.retire_sp (s : State) (len : Addr) : (s.retire len).sp = s.sp := rfl
@[simp] theorem State.retire_p (s : State) (len : Addr) : (s.retire len).p = s.p := rfl
@[simp] theorem State.retire_pc (s : State) (len : Addr) : (s.retire len).pc = s.pc + len := rfl
@[simp] theorem State.retire_mem (s : State) (len : Addr) : (s.retire len).mem = s.mem := rfl
@[simp] theorem State.retire_ppuStatus (s : State) (len : Addr) : (s.retire len).ppuStatus = s.ppuStatus := rfl
@[simp] theorem State.retire_cycle (s : State) (len : Addr) : (s.retire len).cycle = s.cycle := rfl
@[simp] theorem State.retire_scanline (s : State) (len : Addr) : (s.retire len).scanline = s.scanline := rfl
@[simp] theorem State.retire_runState (s : State) (len : Addr) : (s.retire len).runState = s.runState := rfl
@[simp] theorem State.retire_steps (s : State) (len : Addr) : (s.retire len).steps = s.steps + 1 := rfl
@[simp] theorem State.retire_stepBudget (s : State) (len : Addr) : (s.retire len).stepBudget = s.stepBudget := rfl
@[simp] theorem State.retire_ticksDue (s : State) (len : Addr) : (s.retire len).ticksDue = s.ticksDue := rfl

/-! ### `endRun` -/

@[simp] theorem State.endRun_a (s : State) (r : RunState) : (s.endRun r).a = s.a := rfl
@[simp] theorem State.endRun_x (s : State) (r : RunState) : (s.endRun r).x = s.x := rfl
@[simp] theorem State.endRun_y (s : State) (r : RunState) : (s.endRun r).y = s.y := rfl
@[simp] theorem State.endRun_sp (s : State) (r : RunState) : (s.endRun r).sp = s.sp := rfl
@[simp] theorem State.endRun_p (s : State) (r : RunState) : (s.endRun r).p = s.p := rfl
@[simp] theorem State.endRun_pc (s : State) (r : RunState) : (s.endRun r).pc = s.pc := rfl
@[simp] theorem State.endRun_mem (s : State) (r : RunState) : (s.endRun r).mem = s.mem := rfl
@[simp] theorem State.endRun_ppuStatus (s : State) (r : RunState) : (s.endRun r).ppuStatus = s.ppuStatus := rfl
@[simp] theorem State.endRun_cycle (s : State) (r : RunState) : (s.endRun r).cycle = s.cycle := rfl
@[simp] theorem State.endRun_scanline (s : State) (r : RunState) : (s.endRun r).scanline = s.scanline := rfl
@[simp] theorem State.endRun_runState (s : State) (r : RunState) : (s.endRun r).runState = r := rfl
@[simp] theorem State.endRun_steps (s : State) (r : RunState) : (s.endRun r).steps = s.steps := rfl
@[simp] theorem State.endRun_stepBudget (s : State) (r : RunState) : (s.endRun r).stepBudget = s.stepBudget := rfl
@[simp] theorem State.endRun_ticksDue (s : State) (r : RunState) : (s.endRun r).ticksDue = s.ticksDue := rfl

/-! ### `touch` -/

@[simp] theorem State.touch_a (s : State) (ad : Addr) : (s.touch ad).a = s.a := by unfold State.touch; split <;> rfl
@[simp] theorem State.touch_x (s : State) (ad : Addr) : (s.touch ad).x = s.x := by unfold State.touch; split <;> rfl
@[simp] theorem State.touch_y (s : State) (ad : Addr) : (s.touch ad).y = s.y := by unfold State.touch; split <;> rfl
@[simp] theorem State.touch_sp (s : State) (ad : Addr) : (s.touch ad).sp = s.sp := by unfold State.touch; split <;> rfl
@[simp] theorem State.touch_p (s : State) (ad : Addr) : (s.touch ad).p = s.p := by unfold State.touch; split <;> rfl
@[simp] theorem State.touch_pc (s : State) (ad : Addr) : (s.touch ad).pc = s.pc := by unfold State.touch; split <;> rfl
@[simp] theorem State.touch_mem (s : State) (ad : Addr) : (s.touch ad).mem = s.mem := by unfold State.touch; split <;> rfl
@[simp] theorem State.touch_ppuStatus (s : State) (ad : Addr) : (s.touch ad).ppuStatus = if ad = Config.ppuStatusAddr then clearVbl s.ppuStatus else s.ppuStatus := by unfold State.touch; split <;> rfl
@[simp] theorem State.touch_cycle (s : State) (ad : Addr) : (s.touch ad).cycle = s.cycle := by unfold State.touch; split <;> rfl
@[simp] theorem State.touch_scanline (s : State) (ad : Addr) : (s.touch ad).scanline = s.scanline := by unfold State.touch; split <;> rfl
@[simp] theorem State.touch_runState (s : State) (ad : Addr) : (s.touch ad).runState = s.runState := by unfold State.touch; split <;> rfl
@[simp] theorem State.touch_steps (s : State) (ad : Addr) : (s.touch ad).steps = s.steps := by unfold State.touch; split <;> rfl
@[simp] theorem State.touch_stepBudget (s : State) (ad : Addr) : (s.touch ad).stepBudget = s.stepBudget := by unfold State.touch; split <;> rfl
@[simp] theorem State.touch_ticksDue (s : State) (ad : Addr) : (s.touch ad).ticksDue = s.ticksDue := by unfold State.touch; split <;> rfl

/-! ### `loadA` -/

@[simp] theorem State.loadA_a (s : State) (ea : Addr) : (s.loadA ea).a = s.peek ea := by simp [State.loadA, State.memRead]
@[simp] theorem State.loadA_x (s : State) (ea : Addr) : (s.loadA ea).x = s.x := by simp [State.loadA, State.memRead]
@[simp] theorem State.loadA_y (s : State) (ea : Addr) : (s.loadA ea).y = s.y := by simp [State.loadA, State.memRead]
@[simp] theorem State.loadA_sp (s : State) (ea : Addr) : (s.loadA ea).sp = s.sp := by simp [State.loadA, State.memRead]
@[simp] theorem State.loadA_p (s : State) (ea : Addr) : (s.loadA ea).p = updateNZ (s.peek ea) s.p := by simp [State.loadA, State.memRead]
@[simp] theorem State.loadA_pc (s : State) (ea : Addr) : (s.loadA ea).pc = s.pc := by simp [State.loadA, State.memRead]
@[simp] theorem State.loadA_mem (s : State) (ea : Addr) : (s.loadA ea).mem = s.mem := by simp [State.loadA, State.memRead]
@[simp] theorem State.loadA_ppuStatus (s : State) (ea : Addr) : (s.loadA ea).ppuStatus = (s.touch ea).ppuStatus := by simp [State.loadA, State.memRead]
@[simp] theorem State.loadA_cycle (s : State) (ea : Addr) : (s.loadA ea).cycle = s.cycle := by simp [State.loadA, State.memRead]
@[simp] theorem State.loadA_scanline (s : State) (ea : Addr) : (s.loadA ea).scanline = s.scanline := by simp [State.loadA, State.memRead]
@[simp] theorem State.loadA_runState (s : State) (ea : Addr) : (s.loadA ea).runState = s.runState := by simp [State.loadA, State.memRead]
@[simp] theorem State.loadA_steps (s : State) (ea : Addr) : (s.loadA ea).steps = s.steps := by simp [State.loadA, State.memRead]
@[simp] theorem State.loadA_stepBudget (s : State) (ea : Addr) : (s.loadA ea).stepBudget = s.stepBudget := by simp [State.loadA, State.memRead]
@[simp] theorem State.loadA_ticksDue (s : State) (ea : Addr) : (s.loadA ea).ticksDue = s.ticksDue := by simp [State.loadA, State.memRead]

/-! ### `loadX` -/

@[simp] theorem State.loadX_a (s : State) (ea : Addr) : (s.loadX ea).a = s.a := by simp [State.loadX, State.memRead]
@[simp] theorem State.loadX_x (s : State) (ea : Addr) : (s.loadX ea).x = s.peek ea := by simp [State.loadX, State.memRead]
@[simp] theorem State.loadX_y (s : State) (ea : Addr) : (s.loadX ea).y = s.y := by simp [State.loadX, State.memRead]
@[simp] theorem State.loadX_sp (s : State) (ea : Addr) : (s.loadX ea).sp = s.sp := by simp [State.loadX, State.memRead]
@[simp] theorem State.loadX_p (s : State) (ea : Addr) : (s.loadX ea).p = updateNZ (s.peek ea) s.p := by simp [State.loadX, State.memRead]
@[simp] theorem State.loadX_pc (s : State) (ea : Addr) : (s.loadX ea).pc = s.pc := by simp [State.loadX, State.memRead]
@[simp] theorem State.loadX_mem (s : State) (ea : Addr) : (s.loadX ea).mem = s.mem := by simp [State.loadX, State.memRead]
@[simp] theorem State.loadX_ppuStatus (s : State) (ea : Addr) : (s.loadX ea).ppuStatus = (s.touch ea).ppuStatus := by simp [State.loadX, State.memRead]
@[simp] theorem State.loadX_cycle (s : State) (ea : Addr) : (s.loadX ea).cycle = s.cycle := by simp [State.loadX, State.memRead]
@[simp] theorem State.loadX_scanline (s : State) (ea : Addr) : (s.loadX ea).scanline = s.scanline := by simp [State.loadX, State.memRead]
@[simp] theorem State.loadX_runState (s : State) (ea : Addr) : (s.loadX ea).runState = s.runState := by simp [State.loadX, State.memRead]
@[simp] theorem State.loadX_steps (s : State) (ea : Addr) : (s.loadX ea).steps = s.steps := by simp [State.loadX, State.memRead]
@[simp] theorem State.loadX_stepBudget (s : State) (ea : Addr) : (s.loadX ea).stepBudget = s.stepBudget := by simp [State.loadX, State.memRead]
@[simp] theorem State.loadX_ticksDue (s : State) (ea : Addr) : (s.loadX ea).ticksDue = s.ticksDue := by simp [State.loadX, State.memRead]

/-! ### `loadY` -/

@[simp] theorem State.loadY_a (s : State) (ea : Addr) : (s.loadY ea).a = s.a := by simp [State.loadY, State.memRead]
@[simp] theorem State.loadY_x (s : State) (ea : Addr) : (s.loadY ea).x = s.x := by simp [State.loadY, State.memRead]
@[simp] theorem State.loadY_y (s : State) (ea : Addr) : (s.loadY ea).y = s.peek ea := by simp [State.loadY, State.memRead]
@[simp] theorem State.loadY_sp (s : State) (ea : Addr) : (s.loadY ea).sp = s.sp := by simp [State.loadY, State.memRead]
@[simp] theorem State.loadY_p (s : State) (ea : Addr) : (s.loadY ea).p = updateNZ (s.peek ea) s.p := by simp [State.loadY, State.memRead]
@[simp] theorem State.loadY_pc (s : State) (ea : Addr) : (s.loadY ea).pc = s.pc := by simp [State.loadY, State.memRead]
@[simp] theorem State.loadY_mem (s : State) (ea : Addr) : (s.loadY ea).mem = s.mem := by simp [State.loadY, State.memRead]
@[simp] theorem State.loadY_ppuStatus (s : State) (ea : Addr) : (s.loadY ea).ppuStatus = (s.touch ea).ppuStatus := by simp [State.loadY, State.memRead]
@[simp] theorem State.loadY_cycle (s : State) (ea : Addr) : (s.loadY ea).cycle = s.cycle := by simp [State.loadY, State.memRead]
@[simp] theorem State.loadY_scanline (s : State) (ea : Addr) : (s.loadY ea).scanline = s.scanline := by simp [State.loadY, State.memRead]
@[simp] theorem State.loadY_runState (s : State) (ea : Addr) : (s.loadY ea).runState = s.runState := by simp [State.loadY, State.memRead]
@[simp] theorem State.loadY_steps (s : State) (ea : Addr) : (s.loadY ea).steps = s.steps := by simp [State.loadY, State.memRead]
@[simp] theorem State.loadY_stepBudget (s : State) (ea : Addr) : (s.loadY ea).stepBudget = s.stepBudget := by simp [State.loadY, State.memRead]
@[simp] theorem State.loadY_ticksDue (s : State) (ea : Addr) : (s.loadY ea).ticksDue = s.ticksDue := by simp [State.loadY, State.memRead]

/-! ### `modify` -/

@[simp] theorem State.modify_a (s : State) (f : Byte → Byte) (ea : Addr) : (s.modify f ea).a = s.a := by simp [State.modify, State.memRead]
@[simp] theorem State.modify_x (s : State) (f : Byte → Byte) (ea : Addr) : (s.modify f ea).x = s.x := by simp [State.modify, State.memRead]
@[simp] theorem State.modify_y (s : State) (f : Byte → Byte) (ea : Addr) : (s.modify f ea).y = s.y := by simp [State.modify, State.memRead]
@[simp] theorem State.modify_sp (s : State) (f : Byte → Byte) (ea : Addr) : (s.modify f ea).sp = s.sp := by simp [State.modify, State.memRead]
@[simp] theorem State.modify_p (s : State) (f : Byte → Byte) (ea : Addr) : (s.modify f ea).p = updateNZ (f (s.peek ea)) s.p := by simp [State.modify, State.memRead]
@[simp] theorem State.modify_pc (s : State) (f : Byte → Byte) (ea : Addr) : (s.modify f ea).pc = s.pc := by simp [State.modify, State.memRead]
@[simp] theorem State.modify_mem (s : State) (f : Byte → Byte) (ea : Addr) : (s.modify f ea).mem = s.mem.write ea (f (s.peek ea)) := by simp [State.modify, State.memRead]
@[simp] theorem State.modify_ppuStatus (s : State) (f : Byte → Byte) (ea : Addr) : (s.modify f ea).ppuStatus = (s.touch ea).ppuStatus := by simp [State.modify, State.memRead]
@[simp] theorem State.modify_cycle (s : State) (f : Byte → Byte) (ea : Addr) : (s.modify f ea).cycle = s.cycle := by simp [State.modify, State.memRead]
@[simp] theorem State.modify_scanline (s : State) (f : Byte → Byte) (ea : Addr) : (s.modify f ea).scanline = s.scanline := by simp [State.modify, State.memRead]
@[simp] theorem State.modify_runState (s : State) (f : Byte → Byte) (ea : Addr) : (s.modify f ea).runState = s.runState := by simp [State.modify, State.memRead]
@[simp] theorem State.modify_steps (s : State) (f : Byte → Byte) (ea : Addr) : (s.modify f ea).steps = s.steps := by simp [State.modify, State.memRead]
@[simp] theorem State.modify_stepBudget (s : State) (f : Byte → Byte) (ea : Addr) : (s.modify f ea).stepBudget = s.stepBudget := by simp [State.modify, State.memRead]
@[simp] theorem State.modify_ticksDue (s : State) (f : Byte → Byte) (ea : Addr) : (s.modify f ea).ticksDue = s.ticksDue := by simp [State.modify, State.memRead]

/-! ### `branchIf` -/

@[simp] theorem State.branchIf_a (s : State) (taken : Bool) (b1 : Byte) : (s.branchIf taken b1).a = s.a := by cases taken <;> rfl
@[simp] theorem State.branchIf_x (s : State) (taken : Bool) (b1 : Byte) : (s.branchIf taken b1).x = s.x := by cases taken <;> rfl
@[simp] theorem State.branchIf_y (s : State) (taken : Bool) (b1 : Byte) : (s.branchIf taken b1).y = s.y := by cases taken <;> rfl
@[simp] theorem State.branchIf_sp (s : State) (taken : Bool) (b1 : Byte) : (s.branchIf taken b1).sp = s.sp := by cases taken <;> rfl
@[simp] theorem State.branchIf_p (s : State) (taken : Bool) (b1 : Byte) : (s.branchIf taken b1).p = s.p := by cases taken <;> rfl
@[simp] theorem State.branchIf_pc (s : State) (taken : Bool) (b1 : Byte) : (s.branchIf taken b1).pc = if taken then branchTarget s.pc b1 else s.pc + 2 := by cases taken <;> rfl
@[simp] theorem State.branchIf_mem (s : State) (taken : Bool) (b1 : Byte) : (s.branchIf taken b1).mem = s.mem := by cases taken <;> rfl
@[simp] theorem State.branchIf_ppuStatus (s : State) (taken : Bool) (b1 : Byte) : (s.branchIf taken b1).ppuStatus = s.ppuStatus := by cases taken <;> rfl
@[simp] theorem State.branchIf_cycle (s : State) (taken : Bool) (b1 : Byte) : (s.branchIf taken b1).cycle = s.cycle := by cases taken <;> rfl
@[simp] theorem State.branchIf_scanline (s : State) (taken : Bool) (b1 : Byte) : (s.branchIf taken b1).scanline = s.scanline := by cases taken <;> rfl
@[simp] theorem State.branchIf_runState (s : State) (taken : Bool) (b1 : Byte) : (s.branchIf taken b1).runState = s.runState := by cases taken <;> rfl
@[simp] theorem State.branchIf_steps (s : State) (taken : Bool) (b1 : Byte) : (s.branchIf taken b1).steps = s.steps + 1 := by cases taken <;> rfl
@[simp] theorem State.branchIf_stepBudget (s : State) (taken : Bool) (b1 : Byte) : (s.branchIf taken b1).stepBudget = s.stepBudget := by cases taken <;> rfl
@[simp] theorem State.branchIf_ticksDue (s : State) (taken : Bool) (b1 : Byte) : (s.branchIf taken b1).ticksDue = s.ticksDue := by cases taken <;> rfl

/-! ### `nextLine` -/

@[simp] theorem State.nextLine_a (s : State) : (s.nextLine).a = s.a := by unfold State.nextLine; split <;> [skip; split] <;> rfl
@[simp] theorem State.nextLine_x (s : State) : (s.nextLine).x = s.x := by unfold State.nextLine; split <;> [skip; split] <;> rfl
@[simp] theorem State.nextLine_y (s : State) : (s.nextLine).y = s.y := by unfold State.nextLine; split <;> [skip; split] <;> rfl
@[simp] theorem State.nextLine_sp (s : State) : (s.nextLine).sp = s.sp := by unfold State.nextLine; split <;> [skip; split] <;> rfl
@[simp] theorem State.nextLine_p (s : State) : (s.nextLine).p = s.p := by unfold State.nextLine; split <;> [skip; split] <;> rfl
@[simp] theorem State.nextLine_pc (s : State) : (s.nextLine).pc = s.pc := by unfold State.nextLine; split <;> [skip; split] <;> rfl
@[simp] theorem State.nextLine_mem (s : State) : (s.nextLine).mem = s.mem := by unfold State.nextLine; split <;> [skip; split] <;> rfl
@[simp] theorem State.nextLine_cycle (s : State) : (s.nextLine).cycle = 0 := by unfold State.nextLine; split <;> [skip; split] <;> rfl
@[simp] theorem State.nextLine_runState (s : State) : (s.nextLine).runState = s.runState := by unfold State.nextLine; split <;> [skip; split] <;> rfl
@[simp] theorem State.nextLine_steps (s : State) : (s.nextLine).steps = s.steps := by unfold State.nextLine; split <;> [skip; split] <;> rfl
@[simp] theorem State.nextLine_stepBudget (s : State) : (s.nextLine).stepBudget = s.stepBudget := by unfold State.nextLine; split <;> [skip; split] <;> rfl
@[simp] theorem State.nextLine_ticksDue (s : State) : (s.nextLine).ticksDue = s.ticksDue := by unfold State.nextLine; split <;> [skip; split] <;> rfl

/-! ### `tick` -/

@[simp] theorem State.tick_a (s : State) : (s.tick).a = s.a := by unfold State.tick; split <;> simp
@[simp] theorem State.tick_x (s : State) : (s.tick).x = s.x := by unfold State.tick; split <;> simp
@[simp] theorem State.tick_y (s : State) : (s.tick).y = s.y := by unfold State.tick; split <;> simp
@[simp] theorem State.tick_sp (s : State) : (s.tick).sp = s.sp := by unfold State.tick; split <;> simp
@[simp] theorem State.tick_p (s : State) : (s.tick).p = s.p := by unfold State.tick; split <;> simp
@[simp] theorem State.tick_pc (s : State) : (s.tick).pc = s.pc := by unfold State.tick; split <;> simp
@[simp] theorem State.tick_mem (s : State) : (s.tick).mem = s.mem := by unfold State.tick; split <;> simp
@[simp] theorem State.tick_cycle (s : State) : (s.tick).cycle = if s.cycle + 1 = 341 then 0 else s.cycle + 1 := by unfold State.tick; split <;> simp
@[simp] theorem State.tick_runState (s : State) : (s.tick).runState = s.runState := by unfold State.tick; split <;> simp
@[simp] theorem State.tick_steps (s : State) : (s.tick).steps = s.steps := by unfold State.tick; split <;> simp
@[simp] theorem State.tick_stepBudget (s : State) : (s.tick).stepBudget = s.stepBudget := by unfold State.tick; split <;> simp
@[simp] theorem State.tick_ticksDue (s : State) : (s.tick).ticksDue = s.ticksDue := by unfold State.tick; split <;> simp

/-! ### `handOver` -/

@[simp] theorem State.handOver_a (s : State) (sched : Schedule) : (s.handOver sched).a = s.a := by unfold State.handOver; split <;> rfl
@[simp] theorem State.handOver_x (s : State) (sched : Schedule) : (s.handOver sched).x = s.x := by unfold State.handOver; split <;> rfl
@[simp] theorem State.handOver_y (s : State) (sched : Schedule) : (s.handOver sched).y = s.y := by unfold State.handOver; split <;> rfl
@[simp] theorem State.handOver_sp (s : State) (sched : Schedule) : (s.handOver sched).sp = s.sp := by unfold State.handOver; split <;> rfl
@[simp] theorem State.handOver_p (s : State) (sched : Schedule) : (s.handOver sched).p = s.p := by unfold State.handOver; split <;> rfl
@[simp] theorem State.handOver_pc (s : State) (sched : Schedule) : (s.handOver sched).pc = s.pc := by unfold State.handOver; split <;> rfl
@[simp] theorem State.handOver_mem (s : State) (sched : Schedule) : (s.handOver sched).mem = s.mem := by unfold State.handOver; split <;> rfl
@[simp] theorem State.handOver_ppuStatus (s : State) (sched : Schedule) : (s.handOver sched).ppuStatus = s.ppuStatus := by unfold State.handOver; split <;> rfl
@[simp] theorem State.handOver_cycle (s : State) (sched : Schedule) : (s.handOver sched).cycle = s.cycle := by unfold State.handOver; split <;> rfl
@[simp] theorem State.handOver_scanline (s : State) (sched : Schedule) : (s.handOver sched).scanline = s.scanline := by unfold State.handOver; split <;> rfl
@[simp] theorem State.handOver_runState (s : State) (sched : Schedule) : (s.handOver sched).runState = s.runState := by unfold State.handOver; split <;> rfl
@[simp] theorem State.handOver_steps (s : State) (sched : Schedule) : (s.handOver sched).steps = s.steps := by unfold State.handOver; split <;> rfl
@[simp] theorem State.handOver_stepBudget (s : State) (sched : Schedule) : (s.handOver sched).stepBudget = s.stepBudget := by unfold State.handOver; split <;> rfl

theorem State.handOver_running (s : State) (sched : Schedule) (h : s.runState = .running) :
    s.handOver sched = { s with ticksDue := sched s.steps } := by
  unfold State.handOver; rw [h]

theorem State.handOver_ended (s : State) (sched : Schedule) (h : s.runState ≠ .running) : s.handOver sched = s := by
  unfold State.handOver; split <;> simp_all

end Sys2Proof.Machine
end

