-- ==== Sys2Proof/Laws/Ops.lean ====
section
/-! SUPPORT. What each shared operation does, said once: the accessor, the write, the loads, the read-modify-write, the
fetch. -/

namespace Sys2Proof.Machine

theorem State.peek_status (s : State) : s.peek Config.ppuStatusAddr = s.ppuStatus := by simp [State.peek]

theorem State.peek_plain (s : State) {a : Addr} (h : a ≠ Config.ppuStatusAddr) : s.peek a = s.mem.read a := by
  simp [State.peek, h]

theorem State.touch_status (s : State) :
    s.touch Config.ppuStatusAddr = { s with ppuStatus := clearVbl s.ppuStatus } := by simp [State.touch]

theorem State.touch_plain (s : State) {a : Addr} (h : a ≠ Config.ppuStatusAddr) : s.touch a = s := by
  simp [State.touch, h]

/-- Everything a CPU read does (R52): the value of the cell or of PPUSTATUS before the clear, and at most that clear. -/
theorem State.memRead_spec (s : State) (a : Addr) : s.memRead a = (s.peek a, s.touch a) := rfl

/-- A read changes PPUSTATUS at most. -/
theorem State.touch_eq (s : State) (a : Addr) : s.touch a = { s with ppuStatus := (s.touch a).ppuStatus } := by
  unfold State.touch; split <;> rfl

/-- A read at one address leaves what a read at another returns. -/
theorem State.peek_touch_other (s : State) {a b : Addr} (h : b ≠ a) : (s.touch a).peek b = s.peek b := by
  by_cases ha : a = Config.ppuStatusAddr
  · subst ha; simp [State.peek, h]
  · rw [State.touch_plain s ha]

/-- Everything a write does to later reads (R53): the cell reads the new byte unless it lies under PPUSTATUS. -/
theorem State.peek_memWrite (s : State) (a b : Addr) (v : Byte) :
    (s.memWrite a v).peek b = if b = a ∧ b ≠ Config.ppuStatusAddr then v else s.peek b := by
  unfold State.peek
  by_cases hb : b = Config.ppuStatusAddr <;> by_cases hab : b = a <;>
    simp_all [Memory.read_write]

/-- Everything a load into A does. -/
theorem State.loadA_spec (s : State) (ea : Addr) :
    s.loadA ea = { s.touch ea with a := s.peek ea, p := updateNZ (s.peek ea) s.p } := by
  simp only [State.loadA, State.memRead, State.putA, State.setA, State.setNZ, State.touch_p]

/-- Everything a load into X does. -/
theorem State.loadX_spec (s : State) (ea : Addr) :
    s.loadX ea = { s.touch ea with x := s.peek ea, p := updateNZ (s.peek ea) s.p } := by
  simp only [State.loadX, State.memRead, State.putX, State.setX, State.setNZ, State.touch_p]

/-- Everything a load into Y does. -/
theorem State.loadY_spec (s : State) (ea : Addr) :
    s.loadY ea = { s.touch ea with y := s.peek ea, p := updateNZ (s.peek ea) s.p } := by
  simp only [State.loadY, State.memRead, State.putY, State.setY, State.setNZ, State.touch_p]

/-- Everything a read-modify-write does: one read, one write of the same address, the flags of the result. -/
theorem State.modify_spec (s : State) (f : Byte → Byte) (ea : Addr) :
    s.modify f ea = { s.touch ea with
      mem := s.mem.write ea (f (s.peek ea)), p := updateNZ (f (s.peek ea)) s.p } := by
  simp only [State.modify, State.memRead, State.memWrite, State.setNZ, State.touch_p, State.touch_mem]

/-- Retiring an instruction does not change what its data read returns or does. -/
@[simp] theorem State.peek_retire (s : State) (len ea : Addr) : (s.retire len).peek ea = s.peek ea := rfl

theorem State.touch_retire (s : State) (len ea : Addr) : (s.retire len).touch ea = (s.touch ea).retire len := by
  unfold State.touch; split <;> rfl

/-! ### The shared operations after `retire`, as the meanings use them -/

theorem State.retire_loadA (s : State) (len ea : Addr) :
    (s.retire len).loadA ea = { s.touch ea with
      a := s.peek ea, p := updateNZ (s.peek ea) s.p, pc := s.pc + len, steps := s.steps + 1 } := by
  unfold State.loadA State.memRead State.touch; split <;> rfl

theorem State.retire_loadX (s : State) (len ea : Addr) :
    (s.retire len).loadX ea = { s.touch ea with
      x := s.peek ea, p := updateNZ (s.peek ea) s.p, pc := s.pc + len, steps := s.steps + 1 } := by
  unfold State.loadX State.memRead State.touch; split <;> rfl

theorem State.retire_loadY (s : State) (len ea : Addr) :
    (s.retire len).loadY ea = { s.touch ea with
      y := s.peek ea, p := updateNZ (s.peek ea) s.p, pc := s.pc + len, steps := s.steps + 1 } := by
  unfold State.loadY State.memRead State.touch; split <;> rfl

theorem State.retire_modify (s : State) (len ea : Addr) (f : Byte → Byte) :
    (s.retire len).modify f ea = { s.touch ea with
      mem := s.mem.write ea (f (s.peek ea)), p := updateNZ (f (s.peek ea)) s.p,
      pc := s.pc + len, steps := s.steps + 1 } := by
  unfold State.modify State.memRead State.touch; split <;> rfl

theorem State.branchIf_eq (s : State) (taken : Bool) (b1 : Byte) :
    s.branchIf taken b1 = { s with
      pc := if taken then branchTarget s.pc b1 else s.pc + 2, steps := s.steps + 1 } := by
  cases taken <;> rfl

/-- A memory operation of the machine keeps the canonical form. -/
theorem State.memWrite_wf (s : State) (a : Addr) (v : Byte) (h : s.mem.wf = true) : (s.memWrite a v).mem.wf = true :=
  Memory.wf_write s.mem a v h

theorem State.modify_wf (s : State) (f : Byte → Byte) (ea : Addr) (h : s.mem.wf = true) :
    (s.modify f ea).mem.wf = true := by
  simpa using Memory.wf_write s.mem ea _ h

/-- Everything a fetch does, when its opcode is not admitted. -/
theorem State.fetch_unsupported (s : State) (h : decodeOpcode (s.peek s.pc) = none) :
    s.fetch = (.unsupported (s.peek s.pc), s.touch s.pc) := by
  simp [State.fetch, State.memRead, h]

/-- Everything a fetch does, when its opcode is admitted: the operand bytes its mode has, read in address order. -/
theorem State.fetch_row (s : State) (row : Row) (h : decodeOpcode (s.peek s.pc) = some row) :
    s.fetch = match row.mode.operandCount with
      | 0 => (.instr (row.build 0 0), s.touch s.pc)
      | 1 => (.instr (row.build ((s.touch s.pc).peek (s.pc + 1)) 0), (s.touch s.pc).touch (s.pc + 1))
      | _ => (.instr (row.build ((s.touch s.pc).peek (s.pc + 1))
          (((s.touch s.pc).touch (s.pc + 1)).peek (s.pc + 2))),
          ((s.touch s.pc).touch (s.pc + 1)).touch (s.pc + 2)) := by
  cases hm : row.mode <;> simp [State.fetch, State.memRead, h, hm, Mode.operandCount]

/-- A fetch changes PPUSTATUS at most. -/
theorem State.fetch_state (s : State) : s.fetch.2 = { s with ppuStatus := s.fetch.2.ppuStatus } := by
  cases h : decodeOpcode (s.peek s.pc) with
  | none => rw [State.fetch_unsupported s h]; exact State.touch_eq s _
  | some row =>
    rw [State.fetch_row s row h]
    cases row.mode <;> simp only [Mode.operandCount, State.touch] <;> repeat' split
    all_goals rfl

end Sys2Proof.Machine
end

