-- ==== Sys2Proof/Laws/PerInstr.lean ====
section
/-! SUPPORT. Per-instruction laws. `Encoded`: an instruction's encoding has its mode's length, its opcode is the row of
its own mnemonic and mode, and its written form is well formed and stands for it. -/

namespace Sys2Proof.Laws.Encoded

/-- What holds of every instruction's encoding (R81, R82, R93, R96). -/
def Statement (i : Instr) : Prop :=
  (encode i).length = i.length ∧
  (decodeOpcode i.opcode).map (fun r => (r.mnemonic, r.mode)) = some i.form ∧
  i.wellFormed = true

theorem wellFormed_byte {i : Instr} {m : Mnemonic} {md : Mode} (b1 : Byte) (h : i.written = ⟨m, md, b1.toNat⟩)
    (hm : md ∈ admittedModes m) (hb : md.operandBound = 256) : i.wellFormed = true := by
  have h1 := b1.isLt
  simp only [Instr.wellFormed, h, Written.wellFormed, Written.formAdmitted, Written.operandFits, hm, hb, decide_true,
    Bool.true_and, decide_eq_true_eq]
  omega

theorem wellFormed_addr {i : Instr} {m : Mnemonic} {md : Mode} (addr : Addr)
    (h : i.written = ⟨m, md, (lowByte addr).toNat + 256 * ((highByte addr).toNat + 256 * 0)⟩)
    (hm : md ∈ admittedModes m) (hb : md.operandBound = 65536) : i.wellFormed = true := by
  have h1 := (lowByte addr).isLt
  have h2 := (highByte addr).isLt
  simp only [Instr.wellFormed, h, Written.wellFormed, Written.formAdmitted, Written.operandFits, hm, hb, decide_true,
    Bool.true_and, decide_eq_true_eq]
  omega

theorem ldaImm (b1 : Byte) : Statement (.ldaImm b1) :=
  ⟨rfl, rfl, wellFormed_byte b1 rfl (of_decide_eq_true rfl) rfl⟩
theorem ldaZp (b1 : Byte) : Statement (.ldaZp b1) :=
  ⟨rfl, rfl, wellFormed_byte b1 rfl (of_decide_eq_true rfl) rfl⟩
theorem ldaZpX (b1 : Byte) : Statement (.ldaZpX b1) :=
  ⟨rfl, rfl, wellFormed_byte b1 rfl (of_decide_eq_true rfl) rfl⟩
theorem ldaAbs (addr : Addr) : Statement (.ldaAbs addr) :=
  ⟨rfl, rfl, wellFormed_addr addr rfl (of_decide_eq_true rfl) rfl⟩
theorem ldaAbsX (addr : Addr) : Statement (.ldaAbsX addr) :=
  ⟨rfl, rfl, wellFormed_addr addr rfl (of_decide_eq_true rfl) rfl⟩
theorem ldaAbsY (addr : Addr) : Statement (.ldaAbsY addr) :=
  ⟨rfl, rfl, wellFormed_addr addr rfl (of_decide_eq_true rfl) rfl⟩
theorem ldxImm (b1 : Byte) : Statement (.ldxImm b1) :=
  ⟨rfl, rfl, wellFormed_byte b1 rfl (of_decide_eq_true rfl) rfl⟩
theorem ldxZp (b1 : Byte) : Statement (.ldxZp b1) :=
  ⟨rfl, rfl, wellFormed_byte b1 rfl (of_decide_eq_true rfl) rfl⟩
theorem ldxZpY (b1 : Byte) : Statement (.ldxZpY b1) :=
  ⟨rfl, rfl, wellFormed_byte b1 rfl (of_decide_eq_true rfl) rfl⟩
theorem ldxAbs (addr : Addr) : Statement (.ldxAbs addr) :=
  ⟨rfl, rfl, wellFormed_addr addr rfl (of_decide_eq_true rfl) rfl⟩
theorem ldxAbsY (addr : Addr) : Statement (.ldxAbsY addr) :=
  ⟨rfl, rfl, wellFormed_addr addr rfl (of_decide_eq_true rfl) rfl⟩
theorem ldyImm (b1 : Byte) : Statement (.ldyImm b1) :=
  ⟨rfl, rfl, wellFormed_byte b1 rfl (of_decide_eq_true rfl) rfl⟩
theorem ldyZp (b1 : Byte) : Statement (.ldyZp b1) :=
  ⟨rfl, rfl, wellFormed_byte b1 rfl (of_decide_eq_true rfl) rfl⟩
theorem ldyZpX (b1 : Byte) : Statement (.ldyZpX b1) :=
  ⟨rfl, rfl, wellFormed_byte b1 rfl (of_decide_eq_true rfl) rfl⟩
theorem ldyAbs (addr : Addr) : Statement (.ldyAbs addr) :=
  ⟨rfl, rfl, wellFormed_addr addr rfl (of_decide_eq_true rfl) rfl⟩
theorem ldyAbsX (addr : Addr) : Statement (.ldyAbsX addr) :=
  ⟨rfl, rfl, wellFormed_addr addr rfl (of_decide_eq_true rfl) rfl⟩
theorem staZp (b1 : Byte) : Statement (.staZp b1) :=
  ⟨rfl, rfl, wellFormed_byte b1 rfl (of_decide_eq_true rfl) rfl⟩
theorem staZpX (b1 : Byte) : Statement (.staZpX b1) :=
  ⟨rfl, rfl, wellFormed_byte b1 rfl (of_decide_eq_true rfl) rfl⟩
theorem staAbs (addr : Addr) : Statement (.staAbs addr) :=
  ⟨rfl, rfl, wellFormed_addr addr rfl (of_decide_eq_true rfl) rfl⟩
theorem staAbsX (addr : Addr) : Statement (.staAbsX addr) :=
  ⟨rfl, rfl, wellFormed_addr addr rfl (of_decide_eq_true rfl) rfl⟩
theorem staAbsY (addr : Addr) : Statement (.staAbsY addr) :=
  ⟨rfl, rfl, wellFormed_addr addr rfl (of_decide_eq_true rfl) rfl⟩
theorem stxZp (b1 : Byte) : Statement (.stxZp b1) :=
  ⟨rfl, rfl, wellFormed_byte b1 rfl (of_decide_eq_true rfl) rfl⟩
theorem stxZpY (b1 : Byte) : Statement (.stxZpY b1) :=
  ⟨rfl, rfl, wellFormed_byte b1 rfl (of_decide_eq_true rfl) rfl⟩
theorem stxAbs (addr : Addr) : Statement (.stxAbs addr) :=
  ⟨rfl, rfl, wellFormed_addr addr rfl (of_decide_eq_true rfl) rfl⟩
theorem styZp (b1 : Byte) : Statement (.styZp b1) :=
  ⟨rfl, rfl, wellFormed_byte b1 rfl (of_decide_eq_true rfl) rfl⟩
theorem styZpX (b1 : Byte) : Statement (.styZpX b1) :=
  ⟨rfl, rfl, wellFormed_byte b1 rfl (of_decide_eq_true rfl) rfl⟩
theorem styAbs (addr : Addr) : Statement (.styAbs addr) :=
  ⟨rfl, rfl, wellFormed_addr addr rfl (of_decide_eq_true rfl) rfl⟩
theorem tax : Statement .tax := ⟨rfl, rfl, rfl⟩
theorem tay : Statement .tay := ⟨rfl, rfl, rfl⟩
theorem txa : Statement .txa := ⟨rfl, rfl, rfl⟩
theorem tya : Statement .tya := ⟨rfl, rfl, rfl⟩
theorem tsx : Statement .tsx := ⟨rfl, rfl, rfl⟩
theorem txs : Statement .txs := ⟨rfl, rfl, rfl⟩
theorem incZp (b1 : Byte) : Statement (.incZp b1) :=
  ⟨rfl, rfl, wellFormed_byte b1 rfl (of_decide_eq_true rfl) rfl⟩
theorem incZpX (b1 : Byte) : Statement (.incZpX b1) :=
  ⟨rfl, rfl, wellFormed_byte b1 rfl (of_decide_eq_true rfl) rfl⟩
theorem incAbs (addr : Addr) : Statement (.incAbs addr) :=
  ⟨rfl, rfl, wellFormed_addr addr rfl (of_decide_eq_true rfl) rfl⟩
theorem incAbsX (addr : Addr) : Statement (.incAbsX addr) :=
  ⟨rfl, rfl, wellFormed_addr addr rfl (of_decide_eq_true rfl) rfl⟩
theorem inx : Statement .inx := ⟨rfl, rfl, rfl⟩
theorem iny : Statement .iny := ⟨rfl, rfl, rfl⟩
theorem decZp (b1 : Byte) : Statement (.decZp b1) :=
  ⟨rfl, rfl, wellFormed_byte b1 rfl (of_decide_eq_true rfl) rfl⟩
theorem decZpX (b1 : Byte) : Statement (.decZpX b1) :=
  ⟨rfl, rfl, wellFormed_byte b1 rfl (of_decide_eq_true rfl) rfl⟩
theorem decAbs (addr : Addr) : Statement (.decAbs addr) :=
  ⟨rfl, rfl, wellFormed_addr addr rfl (of_decide_eq_true rfl) rfl⟩
theorem decAbsX (addr : Addr) : Statement (.decAbsX addr) :=
  ⟨rfl, rfl, wellFormed_addr addr rfl (of_decide_eq_true rfl) rfl⟩
theorem dex : Statement .dex := ⟨rfl, rfl, rfl⟩
theorem dey : Statement .dey := ⟨rfl, rfl, rfl⟩
theorem bpl (b1 : Byte) : Statement (.bpl b1) :=
  ⟨rfl, rfl, wellFormed_byte b1 rfl (of_decide_eq_true rfl) rfl⟩
theorem bmi (b1 : Byte) : Statement (.bmi b1) :=
  ⟨rfl, rfl, wellFormed_byte b1 rfl (of_decide_eq_true rfl) rfl⟩
theorem bvc (b1 : Byte) : Statement (.bvc b1) :=
  ⟨rfl, rfl, wellFormed_byte b1 rfl (of_decide_eq_true rfl) rfl⟩
theorem bvs (b1 : Byte) : Statement (.bvs b1) :=
  ⟨rfl, rfl, wellFormed_byte b1 rfl (of_decide_eq_true rfl) rfl⟩
theorem bcc (b1 : Byte) : Statement (.bcc b1) :=
  ⟨rfl, rfl, wellFormed_byte b1 rfl (of_decide_eq_true rfl) rfl⟩
theorem bcs (b1 : Byte) : Statement (.bcs b1) :=
  ⟨rfl, rfl, wellFormed_byte b1 rfl (of_decide_eq_true rfl) rfl⟩
theorem bne (b1 : Byte) : Statement (.bne b1) :=
  ⟨rfl, rfl, wellFormed_byte b1 rfl (of_decide_eq_true rfl) rfl⟩
theorem beq (b1 : Byte) : Statement (.beq b1) :=
  ⟨rfl, rfl, wellFormed_byte b1 rfl (of_decide_eq_true rfl) rfl⟩
theorem hlt : Statement .hlt := ⟨rfl, rfl, rfl⟩

end Sys2Proof.Laws.Encoded
end

