-- ==== Sys2Proof/Laws/Step.lean ====
section
/-! SUPPORT. What one action of a run can be, said once: the cases of `stepWith`. -/

namespace Sys2Proof.Machine

theorem stepWith_tick (sched : Schedule) (s : State) (n : Nat) (hr : s.runState = .running)
    (hn : s.ticksDue = n + 1) : stepWith sched s = .next { s.tick with ticksDue := n } := by
  simp only [stepWith, hr, hn]

theorem stepWith_cpu (sched : Schedule) (s : State) (hr : s.runState = .running) (hn : s.ticksDue = 0) :
    stepWith sched s = cpuTurn sched s := by
  simp only [stepWith, hr, hn]

theorem cpuTurn_budget (sched : Schedule) (s : State) (h : s.steps = s.stepBudget) :
    cpuTurn sched s = .next (s.endRun .budgetExhausted) := if_pos h

theorem cpuTurn_step (sched : Schedule) (s : State) (h : s.steps ≠ s.stepBudget) :
    cpuTurn sched s = mapNext (State.handOver sched) (cpuStep s) := if_neg h

/-- Everything an action that has a next state can be: a due tick, the end by the budget, or a CPU step with the
schedule's next ticks. -/
theorem stepWith_cases {sched : Schedule} {s t : State} (h : stepWith sched s = .next t) :
    s.runState = .running ∧
    ((∃ n, s.ticksDue = n + 1 ∧ t = { s.tick with ticksDue := n }) ∨
     (s.ticksDue = 0 ∧ s.steps = s.stepBudget ∧ t = s.endRun .budgetExhausted) ∨
     (s.ticksDue = 0 ∧ s.steps ≠ s.stepBudget ∧ ∃ u, cpuStep s = .next u ∧ t = u.handOver sched)) := by
  cases hr : s.runState with
  | running =>
    refine ⟨rfl, ?_⟩
    cases hn : s.ticksDue with
    | succ n =>
      rw [stepWith_tick sched s n hr hn] at h
      exact .inl ⟨n, rfl, (Host.Outcome.next.inj h).symm⟩
    | zero =>
      rw [stepWith_cpu sched s hr hn] at h
      by_cases hb : s.steps = s.stepBudget
      · rw [cpuTurn_budget sched s hb] at h
        exact .inr (.inl ⟨rfl, hb, (Host.Outcome.next.inj h).symm⟩)
      · rw [cpuTurn_step sched s hb] at h
        cases hc : cpuStep s with
        | next u =>
          rw [hc] at h
          exact .inr (.inr ⟨rfl, hb, u, rfl, (Host.Outcome.next.inj h).symm⟩)
        | fault r => rw [hc] at h; simp [mapNext] at h
        | refused r => rw [hc] at h; simp [mapNext] at h
  | halted a => simp [stepWith, hr] at h
  | unsupported op a => simp [stepWith, hr] at h
  | budgetExhausted => simp [stepWith, hr] at h

/-- Everything a CPU step can be: the fetched instruction's meaning, or the end of the run at its opcode. -/
theorem cpuStep_cases (s : State) :
    (∃ i, s.fetch.1 = .instr i ∧ cpuStep s = exec i s.fetch.2) ∨
    (∃ op, s.fetch.1 = .unsupported op ∧ cpuStep s = .next (s.fetch.2.endRun (.unsupported op s.fetch.2.pc))) := by
  unfold cpuStep
  rcases hf : s.fetch with ⟨f, t⟩
  cases f with
  | instr i => exact .inl ⟨i, rfl, rfl⟩
  | unsupported op => exact .inr ⟨op, rfl, rfl⟩

/-! ### The fetch -/

/-- Everything a fetch does when the bytes a CPU read returns from PC on decode to an instruction: it finds that
instruction, and clears VBL exactly when one of its bytes lies at 0x2002. -/
theorem State.fetch_decoded (s : State) (i : Instr) (rest : List Byte)
    (h : decode [s.peek s.pc, s.peek (s.pc + 1), s.peek (s.pc + 2)] = .ok (i, rest)) :
    s.fetch = (.instr i, if inInstruction s.pc i.length 0x2002 then { s with ppuStatus := clearVbl s.ppuStatus }
      else s) := by
  have n1 : s.pc + 1 ≠ s.pc := by intro h; bv_omega
  have n2 : s.pc + 2 ≠ s.pc := by intro h; bv_omega
  have n3 : s.pc + 2 ≠ s.pc + 1 := by intro h; bv_omega
  cases hd : decodeOpcode (s.peek s.pc) with
  | none => simp [decode, hd] at h
  | some row =>
    have hs := opcodeTable_sound row (decodeOpcode_some hd).1
    rw [State.fetch_row s row hd]
    simp only [decode, hd] at h
    rw [State.peek_touch_other _ n1, State.peek_touch_other _ n3, State.peek_touch_other _ n2]
    cases hm : row.mode.operandCount with
    | zero =>
      rw [hm] at h; cases h
      have hl : (row.build 0 0).length = 1 := by
        rw [Instr.length, Instr.mode, (hs 0 0).2.1]; simp [Mode.length, hm]
      rw [hl]; simp [inInstruction, List.range_succ, State.touch]; congr
    | succ k =>
      cases k with
      | zero =>
        rw [hm] at h; cases h
        have hl : (row.build (s.peek (s.pc+1)) 0).length = 2 := by
          rw [Instr.length, Instr.mode, (hs _ 0).2.1]; simp [Mode.length, hm]
        rw [hl]; simp [inInstruction, List.range_succ, State.touch, Config.ppuStatusAddr]
        by_cases h0 : s.pc = 8194#16
        · simp [h0]
        · by_cases h1 : s.pc + 1#16 = 8194#16 <;> simp [h0, h1]
      | succ k =>
        have hk : k = 0 := by
          cases hmm : row.mode <;> simp [hmm, Mode.operandCount] at hm <;> omega
        subst hk
        rw [hm] at h; cases h
        have hl : (row.build (s.peek (s.pc+1)) (s.peek (s.pc+2))).length = 3 := by
          rw [Instr.length, Instr.mode, (hs _ _).2.1]; simp [Mode.length, hm]
        rw [hl]; simp [inInstruction, List.range_succ, State.touch, Config.ppuStatusAddr]
        by_cases h0 : s.pc = 8194#16
        · simp [h0]
        · by_cases h1 : s.pc + 1#16 = 8194#16
          · have : s.pc + 2#16 ≠ 8194#16 := by intro h; bv_omega
            simp [h0, h1, this]
          · by_cases h2 : s.pc + 2#16 = 8194#16 <;> simp [h0, h1, h2]

/-! ### The PPU's tick -/

/-- When one more makes a counter a given value below its width. -/
theorem counter_succ_eq (c : Counter) (n : Counter) : c + 1 = n + 1 ↔ c = n := by
  constructor
  · intro h; bv_omega
  · rintro rfl; rfl

/-- Everything a tick can be (R210). -/
theorem State.tick_cases (s : State) :
    (s.cycle ≠ 340 ∧ s.tick = { s with cycle := s.cycle + 1 }) ∨
    (s.cycle = 340 ∧ s.scanline = 240 ∧
      s.tick = { s with cycle := 0, scanline := 241, ppuStatus := setVbl s.ppuStatus }) ∨
    (s.cycle = 340 ∧ s.scanline = 261 ∧
      s.tick = { s with cycle := 0, scanline := 0, ppuStatus := clearVbl s.ppuStatus }) ∨
    (s.cycle = 340 ∧ s.scanline ≠ 240 ∧ s.scanline ≠ 261 ∧
      s.tick = { s with cycle := 0, scanline := s.scanline + 1 }) := by
  have hcyc : s.cycle + 1 = 341 ↔ s.cycle = 340 := counter_succ_eq s.cycle 340
  have hset : s.scanline + 1 = 241 ↔ s.scanline = 240 := counter_succ_eq s.scanline 240
  have hwrap : s.scanline + 1 = 262 ↔ s.scanline = 261 := counter_succ_eq s.scanline 261
  unfold State.tick State.nextLine
  by_cases hc : s.cycle = 340
  · rw [if_pos (hcyc.mpr hc)]
    by_cases h1 : s.scanline = 240
    · exact .inr (.inl ⟨hc, h1, if_pos (hset.mpr h1)⟩)
    · rw [if_neg (mt hset.mp h1)]
      by_cases h2 : s.scanline = 261
      · exact .inr (.inr (.inl ⟨hc, h2, if_pos (hwrap.mpr h2)⟩))
      · exact .inr (.inr (.inr ⟨hc, h1, h2, if_neg (mt hwrap.mp h2)⟩))
  · exact .inl ⟨hc, if_neg (mt hcyc.mp hc)⟩

/-- Everything a tick does to counters in range, as numbers. -/
theorem State.tick_toNat (s : State) (hc : s.cycle.toNat ≤ 340) (hl : s.scanline.toNat ≤ 261) :
    s.tick.cycle.toNat = (s.cycle.toNat + 1) % 341 ∧
    s.tick.scanline.toNat = (if s.cycle.toNat = 340 then (s.scanline.toNat + 1) % 262 else s.scanline.toNat) ∧
    s.tick.ppuStatus = (if s.cycle.toNat = 340 ∧ s.scanline.toNat = 240 then setVbl s.ppuStatus
      else if s.cycle.toNat = 340 ∧ s.scanline.toNat = 261 then clearVbl s.ppuStatus else s.ppuStatus) := by
  have e : ∀ c k : Counter, c = k ↔ c.toNat = k.toNat := fun c k => ⟨fun h => by rw [h], BitVec.eq_of_toNat_eq⟩
  rcases State.tick_cases s with ⟨a, q⟩ | ⟨a, b, q⟩ | ⟨a, b, q⟩ | ⟨a, b, c, q⟩ <;> rw [q] <;>
    simp only [ne_eq, e] at * <;> simp at * <;> (try simp [a]) <;> (try simp [b]) <;> (try simp [c]) <;> omega

end Sys2Proof.Machine
end

