-- ==== Sys2Proof/Laws/Run.lean ====
section
/-! SUPPORT. What every meaning does to the fields its family does not compute, what a run of ticks does, how runs
compose, and what the loader's write of an image leaves. -/

namespace Sys2Proof.Machine

/-! ### Every meaning -/

/-- Every instruction completes, and PPUSTATUS loses VBL exactly when it reads data at `PPUSTATUS_ADDR`. -/
theorem exec_status (i : Instr) (s : State) : ∃ t, exec i s = .next t ∧
    t.ppuStatus = if loadAddress i s = some Config.ppuStatusAddr then clearVbl s.ppuStatus else s.ppuStatus := by
  cases i <;> refine ⟨_, rfl, ?_⟩ <;> simp [loadAddress, readsData, effectiveAddress, Instr.mnemonic, Instr.form]

/-- Every instruction keeps canonical memory, the PPU counters and the budget, and changes P by `updateNZ` or not. -/
theorem exec_keeps (i : Instr) (s : State) : ∃ t, exec i s = .next t ∧ (s.mem.wf = true → t.mem.wf = true) ∧
    t.cycle = s.cycle ∧ t.scanline = s.scanline ∧ (t.p = s.p ∨ ∃ v, t.p = updateNZ v s.p) ∧
    t.stepBudget = s.stepBudget := by
  cases i <;> refine ⟨_, rfl, ?_, ?_, ?_, ?_, ?_⟩ <;> simp <;>
    first | exact fun h => Memory.wf_write _ _ _ h | exact .inr ⟨_, rfl⟩

/-- A CPU step either keeps the run going and counts one step, or ends it and counts none. -/
theorem cpuStep_progress (s : State) (hr : s.runState = .running) : ∃ u, cpuStep s = .next u ∧
    u.stepBudget = s.stepBudget ∧
    ((u.runState = .running ∧ u.steps = s.steps + 1) ∨ (u.runState ≠ .running ∧ u.steps = s.steps)) := by
  have hs := State.fetch_state s
  rcases cpuStep_cases s with ⟨i, _, hi⟩ | ⟨op, _, hi⟩
  · rw [hi]
    cases i <;> refine ⟨_, rfl, ?_, ?_⟩ <;> simp [State.endRun] <;> rw [hs] <;> simp [hr]
  · rw [hi]; refine ⟨_, rfl, ?_, .inr ⟨by simp, ?_⟩⟩ <;> simp <;> rw [hs]

/-! ### Ticks -/

theorem State.ticks_succ (n : Nat) (s : State) : State.ticks (n + 1) s = (State.ticks n s).tick := by
  induction n generalizing s with
  | zero => rfl
  | succ n ih => exact ih s.tick

/-- A tick writes the counters and PPUSTATUS only. -/
theorem State.tick_eq (s : State) : s.tick =
    { s with ppuStatus := s.tick.ppuStatus, cycle := s.tick.cycle, scanline := s.tick.scanline } := by
  rcases State.tick_cases s with ⟨_, e⟩ | ⟨_, _, e⟩ | ⟨_, _, e⟩ | ⟨_, _, _, e⟩ <;> rw [e]

/-- A tick does not look at what is due. -/
theorem State.ticks_withDue (n k : Nat) (s : State) :
    State.ticks n { s with ticksDue := k } = { State.ticks n s with ticksDue := k } := by
  induction n generalizing s with
  | zero => rfl
  | succ n ih =>
    have h : State.tick { s with ticksDue := k } = { s.tick with ticksDue := k } := by
      unfold State.tick State.nextLine; simp only; split; split; rfl; split <;> rfl; rfl
    show State.ticks n (State.tick _) = _
    rw [h, ih]; rfl

theorem State.ticks_keeps (n : Nat) (s : State) : (State.ticks n s).runState = s.runState ∧
    (State.ticks n s).steps = s.steps ∧ (State.ticks n s).stepBudget = s.stepBudget := by
  induction n generalizing s with
  | zero => exact ⟨rfl, rfl, rfl⟩
  | succ n ih => have h := ih s.tick; simp at h; exact h

/-! ### Runs -/

theorem run_succ (M : Host.Core) (n : Nat) (s t : M.State) (h : M.step s = .next t) : M.run (n + 1) s = M.run n t := by
  simp [Host.Core.run, h]

theorem run_add (M : Host.Core) (m n : Nat) (s t : M.State) (h : M.run m s = .next t) :
    M.run (m + n) s = M.run n t := by
  induction m generalizing s with
  | zero => simp [Host.Core.run] at h; subst h; simp
  | succ m ih =>
    rw [Nat.succ_add]
    cases hs : M.step s with
    | next u => rw [run_succ M m s u hs] at h; rw [run_succ M _ s u hs]; exact ih u h
    | fault r => simp [Host.Core.run, hs] at h
    | refused r => simp [Host.Core.run, hs] at h

/-! ### The loader's write -/

/-- Everything the write of an image does, when it does not pass the top of memory (R245). -/
theorem Memory.read_install (bytes : List Byte) (m : Memory) (base : Nat) (h : base + bytes.length ≤ 65536) (a : Addr) :
    (m.install base bytes).read a =
      if base ≤ a.toNat then (bytes[a.toNat - base]?).getD (m.read a) else m.read a := by
  induction bytes generalizing m base with
  | nil => simp [Memory.install]
  | cons b rest ih =>
    have hl : (b :: rest).length = rest.length + 1 := rfl
    rw [Memory.install, ih _ (base + 1) (by omega)]
    have hb : (BitVec.ofNat 16 base).toNat = base := by simp; omega
    by_cases h1 : base = a.toNat
    · have : a = BitVec.ofNat 16 base := by simp [h1]
      simp [this, hb]
    · have : a ≠ BitVec.ofNat 16 base := by intro e; rw [e, hb] at h1; exact h1 rfl
      by_cases h2 : base ≤ a.toNat
      · obtain ⟨k, hk⟩ : ∃ k, a.toNat - base = k + 1 := ⟨a.toNat - base - 1, by omega⟩
        have hk' : a.toNat - (base + 1) = k := by omega
        simp [h2, hk, hk', show base + 1 ≤ a.toNat by omega, Memory.read_write, this]
      · simp [h2, show ¬ base + 1 ≤ a.toNat by omega, Memory.read_write, this]

end Sys2Proof.Machine
end

