-- ==== Sys2Proof/Tests/Slice0.lean ====
section
/-! SUPPORT. Tests of one step each, the checks of WellFormed, the decoder on written-out words, and a witness for every
statement that has hypotheses. Expected results come from spec/95_test_vectors.md (the vector's id stands in the
comment) or from the rule named there. -/

namespace Sys2Proof.Tests

open Sys2Proof Sys2Proof.Machine Sys2Proof.Claims

/-! ### Helpers -/

/-- The reset registers, the CPU's turn, a budget of 100 steps, `bytes` at `pc`, and the listed cells. -/
def machine (pc : Addr) (bytes : List Byte) (cells : List (Addr × Byte) := []) : State :=
  { State.reset with
    pc := pc, ticksDue := 0, stepBudget := 100
    mem := cells.foldl (fun m c => m.write c.1 c.2) (Memory.install [] pc.toNat bytes) }

/-- Something seen of the state after an outcome. -/
def seen {α : Type} (r : Result) (f : State → α) : Option α :=
  match r with
  | .next s => some (f s)
  | .fault _ => none
  | .refused _ => none

/-- What a step's next state holds in its CPU registers, PC last. -/
def registers (t : State) : Byte × Byte × Byte × Byte × Byte × Addr := (t.a, t.x, t.y, t.sp, t.p, t.pc)

/-! ### WellFormed: ill-formed written instructions are refused -/

-- R93: LDA has no zero-page,Y form.
theorem test_wf_mode_not_admitted : (Written.mk .lda .zeroPageY 0x10).wellFormed = false ∧
    (Written.mk .lda .zeroPageY 0x10).toInstr = none := by decide

-- R93: a store has no immediate form, TAX no operand.
theorem test_wf_mode_of_other_family : (Written.mk .sta .immediate 0x10).formAdmitted = false ∧
    (Written.mk .tax .zeroPage 0x10).formAdmitted = false := by decide

-- R82: one operand byte holds 0 to 255, two hold 0 to 65535, an implied form holds none.
theorem test_wf_operand_too_large : (Written.mk .lda .immediate 256).operandFits = false ∧
    (Written.mk .lda .absolute 65536).operandFits = false ∧ (Written.mk .hlt .implied 1).operandFits = false ∧
    (Written.mk .lda .immediate 256).toInstr = none := by decide

-- R96: a label 128 bytes above or 129 below the next instruction is out of reach.
theorem test_wf_branch_out_of_reach : branchReaches 0x8000 0x8082 = false ∧ branchReaches 0x8000 0x7F81 = false ∧
    assembleBranch 0x8000 0x8082 = none ∧ assembleBranch 0x8000 0x7F81 = none := by decide

-- R96, V-BR7, V-BR8, V-BR13: the ends of the reach, and one across 0xFFFF.
theorem test_wf_branch_in_reach : assembleBranch 0x8000 0x8081 = some 0x7F ∧ assembleBranch 0x8000 0x7F82 = some 0x80 ∧
    assembleBranch 0xFFF0 0x0071 = some 0x7F := by decide

-- R93: the table's (mnemonic, mode) pairs are distinct, and each is admitted.
theorem test_table_agrees_with_forms : (opcodeTable.map (fun r => (r.mnemonic, r.mode))).Nodup ∧
    opcodeTable.all (fun r => r.mode ∈ admittedModes r.mnemonic) = true := by decide

/-! ### Decoding: a word for every constructor, written out from R93 -/

-- One word of each family bit by bit: LDA # 1010 1001, STX zp 1000 0110, TSX 1011 1010, INY 1100 1000, DEC abs
-- 1100 1110, BVS 0111 0000, HLT 0000 0000.
theorem test_decode_bit_by_bit : decode [0b10101001, 0x44] = .ok (.ldaImm 0x44, []) ∧
    decode [0b10000110, 0x10] = .ok (.stxZp 0x10, []) ∧ decode [0b10111010] = .ok (.tsx, []) ∧
    decode [0b11001000] = .ok (.iny, []) ∧ decode [0b11001110, 0x34, 0x12] = .ok (.decAbs 0x1234, []) ∧
    decode [0b01110000, 0xFE] = .ok (.bvs 0xFE, []) ∧ decode [0b00000000] = .ok (.hlt, []) :=
  ⟨rfl, rfl, rfl, rfl, rfl, rfl, rfl⟩

theorem test_decode_lda : decode [0xA9, 0x01] = .ok (.ldaImm 0x01, []) ∧ decode [0xA5, 0x10] = .ok (.ldaZp 0x10, []) ∧
    decode [0xB5, 0x80] = .ok (.ldaZpX 0x80, []) ∧ decode [0xAD, 0x34, 0x12] = .ok (.ldaAbs 0x1234, []) ∧
    decode [0xBD, 0xFF, 0xFF] = .ok (.ldaAbsX 0xFFFF, []) ∧ decode [0xB9, 0xFF, 0x80] = .ok (.ldaAbsY 0x80FF, []) :=
  ⟨rfl, rfl, rfl, rfl, rfl, rfl⟩

theorem test_decode_ldx_ldy : decode [0xA2, 0x05] = .ok (.ldxImm 0x05, []) ∧ decode [0xA6, 0x42] = .ok (.ldxZp 0x42, []) ∧
    decode [0xB6, 0xF8] = .ok (.ldxZpY 0xF8, []) ∧ decode [0xAE, 0x02, 0x20] = .ok (.ldxAbs 0x2002, []) ∧
    decode [0xBE, 0x00, 0x03] = .ok (.ldxAbsY 0x0300, []) ∧ decode [0xA0, 0x80] = .ok (.ldyImm 0x80, []) ∧
    decode [0xA4, 0x20] = .ok (.ldyZp 0x20, []) ∧ decode [0xB4, 0xFF] = .ok (.ldyZpX 0xFF, []) ∧
    decode [0xAC, 0x02, 0x20] = .ok (.ldyAbs 0x2002, []) ∧ decode [0xBC, 0x00, 0x20] = .ok (.ldyAbsX 0x2000, []) :=
  ⟨rfl, rfl, rfl, rfl, rfl, rfl, rfl, rfl, rfl, rfl⟩

theorem test_decode_stores : decode [0x85, 0x10] = .ok (.staZp 0x10, []) ∧ decode [0x95, 0x80] = .ok (.staZpX 0x80, []) ∧
    decode [0x8D, 0x00, 0x02] = .ok (.staAbs 0x0200, []) ∧ decode [0x9D, 0xFF, 0xFF] = .ok (.staAbsX 0xFFFF, []) ∧
    decode [0x99, 0xFF, 0x01] = .ok (.staAbsY 0x01FF, []) ∧ decode [0x86, 0x10] = .ok (.stxZp 0x10, []) ∧
    decode [0x96, 0xFF] = .ok (.stxZpY 0xFF, []) ∧ decode [0x8E, 0x34, 0x12] = .ok (.stxAbs 0x1234, []) ∧
    decode [0x84, 0x10] = .ok (.styZp 0x10, []) ∧ decode [0x94, 0xF8] = .ok (.styZpX 0xF8, []) ∧
    decode [0x8C, 0x00, 0x03] = .ok (.styAbs 0x0300, []) :=
  ⟨rfl, rfl, rfl, rfl, rfl, rfl, rfl, rfl, rfl, rfl, rfl⟩

theorem test_decode_transfers : decode [0xAA] = .ok (.tax, []) ∧ decode [0xA8] = .ok (.tay, []) ∧
    decode [0x8A] = .ok (.txa, []) ∧ decode [0x98] = .ok (.tya, []) ∧ decode [0xBA] = .ok (.tsx, []) ∧
    decode [0x9A] = .ok (.txs, []) :=
  ⟨rfl, rfl, rfl, rfl, rfl, rfl⟩

theorem test_decode_counts : decode [0xE6, 0x10] = .ok (.incZp 0x10, []) ∧ decode [0xF6, 0xFF] = .ok (.incZpX 0xFF, []) ∧
    decode [0xEE, 0x00, 0x03] = .ok (.incAbs 0x0300, []) ∧ decode [0xFE, 0xFF, 0xFF] = .ok (.incAbsX 0xFFFF, []) ∧
    decode [0xE8] = .ok (.inx, []) ∧ decode [0xC8] = .ok (.iny, []) ∧ decode [0xC6, 0x10] = .ok (.decZp 0x10, []) ∧
    decode [0xD6, 0xF0] = .ok (.decZpX 0xF0, []) ∧ decode [0xCE, 0x00, 0x03] = .ok (.decAbs 0x0300, []) ∧
    decode [0xDE, 0xFF, 0xFF] = .ok (.decAbsX 0xFFFF, []) ∧ decode [0xCA] = .ok (.dex, []) ∧
    decode [0x88] = .ok (.dey, []) :=
  ⟨rfl, rfl, rfl, rfl, rfl, rfl, rfl, rfl, rfl, rfl, rfl, rfl⟩

theorem test_decode_branches_halt : decode [0x10, 0xFB] = .ok (.bpl 0xFB, []) ∧ decode [0x30, 0x04] = .ok (.bmi 0x04, []) ∧
    decode [0x50, 0x02] = .ok (.bvc 0x02, []) ∧ decode [0x70, 0x02] = .ok (.bvs 0x02, []) ∧
    decode [0x90, 0x80] = .ok (.bcc 0x80, []) ∧ decode [0xB0, 0x7F] = .ok (.bcs 0x7F, []) ∧
    decode [0xD0, 0xFE] = .ok (.bne 0xFE, []) ∧ decode [0xF0, 0x00] = .ok (.beq 0x00, []) ∧
    decode [0x00] = .ok (.hlt, []) :=
  ⟨rfl, rfl, rfl, rfl, rfl, rfl, rfl, rfl, rfl⟩

-- R94, V-HU2 to V-HU5: bytes that are no admitted opcode; a form whose operand bytes are missing; nothing at all.
theorem test_decode_rejects_by_name : decode [0x4C, 0x00, 0x80] = .error (.unsupportedOpcode 0x4C) ∧
    decode [0xEA] = .error (.unsupportedOpcode 0xEA) ∧ decode [0x02] = .error (.unsupportedOpcode 0x02) ∧
    decode [0xAD, 0x34] = .error (.truncated 0xAD) ∧ decode [] = .error .noBytes :=
  ⟨rfl, rfl, rfl, rfl, rfl⟩

-- Table words: the opcode byte lowest, then the operand bytes; operand bytes the word lacks are 0.
theorem test_decode_table_word : decodeTableWord 24 0x1234AD = some (.ldaAbs 0x1234) ∧
    decodeTableWord 8 0xAD = some (.ldaAbs 0x0000) ∧ decodeTableWord 16 0xFB10 = some (.bpl 0xFB) ∧
    decodeTableWord 8 0x00 = some .hlt ∧ decodeTableWord 8 0x4C = none := by decide

-- Every row of the table, with operand words of zeros, is fetched and run as the first instruction after reset.
theorem test_every_row_runs_first_after_reset : opcodeTable.all (fun r =>
    let s := State.reset.withFetchWord (8 * r.mode.length) r.opcode.toNat
    decodeTableWord (8 * r.mode.length) r.opcode.toNat == some (r.build 0 0) &&
    (seen (step s) (fun t => (registers t, t.mem, t.runState, t.steps))) ==
      (seen (exec (r.build 0 0) s) (fun t => (registers t, t.mem, t.runState, t.steps)))) = true := by decide

/-! ### Loads -/

-- V-LD1: N cleared and Z set, from P = 0xB4.
theorem test_lda_zero : seen (step { machine 0x8000 [0xA9, 0x00] with p := 0xB4 }) registers =
    some (0x00, 0x00, 0x00, 0xFD, 0x36, 0x8002) := by decide

-- V-AM4, R86: the sum stays in the zero page; the cell at 0x0100 is not read.
theorem test_lda_zero_page_x_wraps : seen (step { machine 0x8000 [0xB5, 0xFF] [(0x0000, 0x80), (0x0100, 0x11)] with
    x := 0x01 }) registers = some (0x80, 0x01, 0x00, 0xFD, 0xB4, 0x8002) := by decide

-- V-LD6: LDX $FF,Y.
theorem test_ldx_zero_page_y : seen (step { machine 0x8000 [0xB6, 0xFF] [(0x0000, 0x90)] with y := 0x01 }) registers =
    some (0x00, 0x90, 0x01, 0xFD, 0xB4, 0x8002) := by decide

-- V-LD7: LDX $0300,Y of a zero.
theorem test_ldx_absolute_y : seen (step { machine 0x8000 [0xBE, 0x00, 0x03] [(0x0300, 0x11)] with x := 0x22, y := 0x03 })
    registers = some (0x00, 0x00, 0x03, 0xFD, 0x36, 0x8003) := by decide

-- V-LD8: an indexed load that lands on 0x2002 reads PPUSTATUS and clears VBL.
theorem test_ldy_reads_status : seen (step { machine 0x8000 [0xBC, 0x00, 0x20] [(0x2002, 0x55)] with
    x := 0x02, ppuStatus := 0x80 }) (fun t => (t.y, t.p, t.ppuStatus)) = some (0x80, 0xB4, 0x00) := by decide

-- V-LD10: LDY $FF,X.
theorem test_ldy_zero_page_x : seen (step { machine 0x8000 [0xB4, 0xFF] [(0x0004, 0x33)] with x := 0x05 }) registers =
    some (0x00, 0x05, 0x33, 0xFD, 0x34, 0x8002) := by decide

/-! ### Stores -/

-- V-ST2: a store of 0 does not set Z, and the cell then reads 0.
theorem test_sta_zero_keeps_flags : seen (step { machine 0x8000 [0x85, 0x10] [(0x0010, 0x77)] with p := 0xB4 })
    (fun t => (t.mem.read 0x0010, t.p, t.pc)) = some (0x00, 0xB4, 0x8002) := by decide

-- V-ST12: a store to 0x2002 stores and does not clear VBL.
theorem test_sta_status_is_literal : seen (step { machine 0x8000 [0x8D, 0x02, 0x20] with a := 0x11, ppuStatus := 0x80 })
    (fun t => (t.mem.read 0x2002, t.ppuStatus, t.p)) = some (0x11, 0x80, 0x34) := by decide

-- V-ST6, V-ST7.
theorem test_stx_zero_page_y : seen (step { machine 0x8000 [0x96, 0xFF] with x := 0x07, y := 0x01 })
    (fun t => (t.mem.read 0x0000, t.mem.read 0x0100)) = some (0x07, 0x00) := by decide
theorem test_stx_absolute : seen (step { machine 0x8000 [0x8E, 0x34, 0x12] with x := 0x09 })
    (fun t => (t.mem.read 0x1234, t.pc)) = some (0x09, 0x8003) := by decide

-- V-ST8, V-ST10.
theorem test_sty_zero_page_x : seen (step { machine 0x8000 [0x94, 0xF8] with y := 0xAB, x := 0x10 })
    (fun t => (t.mem.read 0x0008, t.p)) = some (0xAB, 0x34) := by decide
theorem test_sty_absolute : seen (step { machine 0x8000 [0x8C, 0x00, 0x03] with y := 0x5A })
    (fun t => (t.mem.read 0x0300, t.pc)) = some (0x5A, 0x8003) := by decide

/-! ### Transfers (V-TR1, V-TR4, V-TR6, V-TR8, V-TR9, V-TR12) -/

theorem test_tax : seen (step { machine 0x8000 [0xAA] with a := 0xFF }) registers =
    some (0xFF, 0xFF, 0x00, 0xFD, 0xB4, 0x8001) := by decide
theorem test_tay : seen (step { machine 0x8000 [0xA8] with a := 0x40, x := 0x22 }) registers =
    some (0x40, 0x22, 0x40, 0xFD, 0x34, 0x8001) := by decide
theorem test_txa : seen (step { machine 0x8000 [0x8A] with x := 0x80, y := 0x22 }) registers =
    some (0x80, 0x80, 0x22, 0xFD, 0xB4, 0x8001) := by decide
theorem test_tya : seen (step { machine 0x8000 [0x98] with a := 0x11, x := 0x22 }) registers =
    some (0x00, 0x22, 0x00, 0xFD, 0x36, 0x8001) := by decide
theorem test_tsx : seen (step (machine 0x8000 [0xBA])) registers =
    some (0x00, 0xFD, 0x00, 0xFD, 0xB4, 0x8001) := by decide
theorem test_txs : seen (step { machine 0x8000 [0x9A] with p := 0xB4 }) registers =
    some (0x00, 0x00, 0x00, 0x00, 0x36, 0x8001) := by decide

/-! ### Increments and decrements -/

-- V-IN5: no carry into the next cell. V-IN7: INC of 0x2002 reads PPUSTATUS, writes the cell.
theorem test_inc_wraps : seen (step (machine 0x8000 [0xEE, 0x00, 0x03] [(0x0300, 0xFF)]))
    (fun t => (t.mem.read 0x0300, t.mem.read 0x0301, t.p)) = some (0x00, 0x00, 0x36) := by decide
theorem test_inc_status : seen (step { machine 0x8000 [0xEE, 0x02, 0x20] with ppuStatus := 0x80 })
    (fun t => (t.mem.read 0x2002, t.ppuStatus, t.p)) = some (0x81, 0x00, 0xB4) := by decide

-- V-DE2, V-DE6.
theorem test_dec_wraps : seen (step (machine 0x8000 [0xC6, 0x10])) (fun t => (t.mem.read 0x0010, t.p, t.pc)) =
    some (0xFF, 0xB4, 0x8002) := by decide
theorem test_dec_status : seen (step { machine 0x8000 [0xCE, 0x02, 0x20] with ppuStatus := 0x80 })
    (fun t => (t.mem.read 0x2002, t.ppuStatus, t.p)) = some (0x7F, 0x00, 0x34) := by decide

-- V-IN8, V-IN10, V-DE7, V-DE10; V-AM13 for the wrap of PC.
theorem test_inx : seen (step { machine 0xFFFF [0xE8] with x := 0xFF }) registers =
    some (0x00, 0x00, 0x00, 0xFD, 0x36, 0x0000) := by decide
theorem test_iny : seen (step { machine 0x8000 [0xC8] with y := 0xFF, x := 0x01 }) registers =
    some (0x00, 0x01, 0x00, 0xFD, 0x36, 0x8001) := by decide
theorem test_dex : seen (step { machine 0x8000 [0xCA] with y := 0x01 }) registers =
    some (0x00, 0xFF, 0x01, 0xFD, 0xB4, 0x8001) := by decide
theorem test_dey : seen (step { machine 0x8000 [0x88] with x := 0x01, y := 0x80 }) registers =
    some (0x00, 0x01, 0x7F, 0xFD, 0x34, 0x8001) := by decide

/-! ### Branches (V-BR1 to V-BR13) -/

theorem test_bpl : seen (step (machine 0x8010 [0x10, 0xFB])) (·.pc) = some 0x800D ∧
    seen (step { machine 0x8010 [0x10, 0xFB] with p := 0xB4 }) (·.pc) = some 0x8012 := by decide
theorem test_bmi : seen (step { machine 0x8000 [0x30, 0x04] with p := 0xB4 }) (·.pc) = some 0x8006 ∧
    seen (step (machine 0x8000 [0x30, 0x04])) (·.pc) = some 0x8002 := by decide
theorem test_bvc : seen (step (machine 0x8000 [0x50, 0x02])) (·.pc) = some 0x8004 ∧
    seen (step { machine 0x8000 [0x50, 0x02] with p := 0x74 }) (·.pc) = some 0x8002 := by decide
theorem test_bvs : seen (step (machine 0x8000 [0x70, 0x02])) (·.pc) = some 0x8002 ∧
    seen (step { machine 0x8000 [0x70, 0x02] with p := 0x74 }) (·.pc) = some 0x8004 := by decide
theorem test_bcc : seen (step (machine 0x8000 [0x90, 0x80])) (·.pc) = some 0x7F82 ∧
    seen (step { machine 0x8000 [0x90, 0x80] with p := 0x35 }) (·.pc) = some 0x8002 := by decide
theorem test_bcs : seen (step (machine 0x8000 [0xB0, 0x7F])) (·.pc) = some 0x8002 ∧
    seen (step { machine 0x8000 [0xB0, 0x7F] with p := 0x35 }) (·.pc) = some 0x8081 := by decide
theorem test_bne : seen (step (machine 0xFFF0 [0xD0, 0x7F])) (·.pc) = some 0x0071 ∧
    seen (step { machine 0x8000 [0xD0, 0xFE] with p := 0x36 }) (·.pc) = some 0x8002 := by decide
theorem test_beq : seen (step { machine 0x0005 [0xF0, 0xF8] with p := 0x36 }) (·.pc) = some 0xFFFF ∧
    seen (step (machine 0x0005 [0xF0, 0xF8])) (·.pc) = some 0x0007 := by decide

/-! ### Halt, unsupported opcodes, the budget, fetches at 0x2002 -/

-- V-HU1: PC and the step count stay.
theorem test_hlt : seen (step (machine 0x8005 [0x00])) (fun t => (t.runState, t.pc, t.steps)) =
    some (.halted 0x8005, 0x8005, 0) := by decide

-- V-HU7: the opcode fetched at 0x2002 is PPUSTATUS, not the cell.
theorem test_hlt_from_status : seen (step (machine 0x2002 [0xA9])) (fun t => (t.runState, t.ppuStatus)) =
    some (.halted 0x2002, 0x00) := by decide

-- V-HU6: the same fetch with VBL set is an unsupported 0x80, and clears VBL.
theorem test_unsupported_from_status : seen (step { machine 0x2002 [0xA9] with ppuStatus := 0x80 })
    (fun t => (t.runState, t.ppuStatus, t.pc)) = some (.unsupported 0x80 0x2002, 0x00, 0x2002) := by decide

-- V-HU8: an operand byte fetched at 0x2002.
theorem test_operand_from_status : seen (step { machine 0x2001 [0xA9, 0x00] with ppuStatus := 0x80 })
    (fun t => (registers t, t.ppuStatus)) = some ((0x80, 0x00, 0x00, 0xFD, 0xB4, 0x2003), 0x00) := by decide

-- V-HU9: the budget ends the run before the fetch, so VBL stays.
theorem test_budget_before_fetch : seen (step { machine 0x2002 [] with ppuStatus := 0x80, steps := 100 })
    (fun t => (t.runState, t.ppuStatus, t.steps)) = some (.budgetExhausted, 0x80, 100) := by decide

-- V-AM11: an instruction that straddles 0xFFFF and reads PPUSTATUS.
theorem test_fetch_wraps : seen (step { machine 0xFFFF [0xAD, 0x02, 0x20] with ppuStatus := 0x80 })
    (fun t => (registers t, t.ppuStatus)) = some ((0x80, 0x00, 0x00, 0xFD, 0xB4, 0x0002), 0x00) := by decide

/-! ### The PPU and reset -/

-- V-PP3, V-PP4, V-PP6, V-PP8: the four edges of a tick.
theorem test_tick_edges :
    ((machine 0 []).tick.cycle, (machine 0 []).tick.scanline) = (1, 0) ∧
    (let t := { machine 0 [] with cycle := 340 }.tick; (t.cycle, t.scanline, t.vbl) = (0, 1, false)) ∧
    (let t := { machine 0 [] with cycle := 340, scanline := 240 }.tick; (t.cycle, t.scanline, t.vbl) = (0, 241, true)) ∧
    (let t := { machine 0 [] with cycle := 340, scanline := 261, ppuStatus := 0x80 }.tick
     (t.cycle, t.scanline, t.vbl) = (0, 0, false)) := by decide

-- W8: the vector is little-endian.
theorem test_reset_vector : registers (State.afterReset (Memory.install [] 0xFFFC [0x34, 0x12]) 5 0) =
    (0x00, 0x00, 0x00, 0xFD, 0x34, 0x1234) := by decide

/-! ### The cartridge loader (V-LO1 to V-LO11), by lengths, not by evaluation -/

/-- `H(b4, b5, b6)` of spec/95_test_vectors.md section 2.11. -/
def header (b4 b5 b6 : Byte) : List Byte := [0x4E, 0x45, 0x53, 0x1A, b4, b5, b6, 0, 0, 0, 0, 0, 0, 0, 0, 0]

theorem header_valid (b4 b5 b6 : Byte) (data : List Byte) : headerValid (header b4 b5 b6 ++ data) = true := by
  simp [headerValid, header]

theorem header_readFile (b4 b5 b6 : Byte) (data : List Byte) :
    readFile (header b4 b5 b6 ++ data) 16 data.length = some data := by
  simp [readFile, header]

theorem header_prgUnits (b4 b5 b6 : Byte) (data : List Byte) : prgUnits (header b4 b5 b6 ++ data) = b4.toNat := rfl

theorem header_prgOffset (b4 b5 : Byte) (data : List Byte) : prgOffset (header b4 b5 0 ++ data) = 16 := by
  simp [prgOffset, trainerPresent, fileByte, header]

theorem header_chrUnits (b4 b5 b6 : Byte) (data : List Byte) : chrUnits (header b4 b5 b6 ++ data) = b5.toNat := rfl

-- R248: the pattern data stands right after the program, here of zero units.
theorem test_load_pattern (data : List Byte) (h : data.length = 8192) :
    loadPatternData (header 0 1 0 ++ data) = some data := by
  have hr := header_readFile 0 1 0 data
  rw [h] at hr
  rw [loadPatternData, header_prgUnits, header_prgOffset]
  exact hr

-- V-LO1: one unit and no pattern data.
theorem test_load_one_unit (prg : List Byte) (h : prg.length = 16384) :
    (loadProgram (header 1 0 0 ++ prg) []).isSome = true ∧
    loadPatternData (header 1 0 0 ++ prg) = some (List.replicate 8192 0) := by
  refine ⟨?_, rfl⟩
  have hr := header_readFile 1 0 0 prg
  rw [h] at hr
  rw [loadProgram, header_prgUnits, header_prgOffset]
  show (Option.map _ (readFile _ 16 16384)).isSome = true
  rw [hr]; rfl

-- V-LO9's failure, with two units: they are installed, and then the pattern data is missing.
theorem test_load_two_units_short_pattern (prg : List Byte) (h : prg.length = 32768) :
    (loadProgram (header 2 1 0 ++ prg) []).isSome = true ∧ loadPatternData (header 2 1 0 ++ prg) = none := by
  constructor
  · have hr := header_readFile 2 1 0 prg
    rw [h] at hr
    rw [loadProgram, header_prgUnits, header_prgOffset]
    show (Option.map _ (readFile _ 16 32768)).isSome = true
    rw [hr]; rfl
  · have hd : (header 2 1 0 ++ prg).drop (16 + 32768) = [] :=
      List.drop_eq_nil_of_le (by rw [List.length_append, h]; exact Nat.le_refl _)
    rw [loadPatternData, header_prgUnits, header_prgOffset]
    show readFile _ (16 + 32768) 8192 = none
    rw [readFile, hd]; rfl

-- V-LO4, V-LO5, V-LO6, V-LO7, V-LO10.
theorem test_load_failures : launch (some [0x4E, 0x45, 0x53, 0x1B, 1, 0, 0, 0, 0, 0, 0, 0, 0, 0, 0, 0]) [] 5 referenceSchedule =
      .failed .setupHeaderInvalid [] ∧
    launch (some (List.replicate 10 0x4E)) [] 5 referenceSchedule = .failed .setupHeaderInvalid [] ∧
    launch (some (header 0 0 0)) [] 5 referenceSchedule = .failed .setupProgramLoad [] ∧
    launch (some (header 3 0 0)) [] 5 referenceSchedule = .failed .setupProgramLoad [] ∧
    launch none [] 5 referenceSchedule = .failed .setupFileOpen [] := ⟨rfl, rfl, rfl, rfl, rfl⟩

-- V-LO3, V-LO11: byte 6 bit 2 puts the program 512 bytes further; the other bits are ignored.
theorem test_trainer_offset : prgOffset (header 1 0 0x04) = 528 ∧ prgOffset (header 1 0 0xF3) = 16 := by decide

/-! ### Witnesses: a state or operands that meet the hypotheses of each statement -/

theorem witness_DecodedBytesAreTheEncoding : decode [0x8D, 0x00, 0x02, 0xEA] = .ok (.staAbs 0x0200, [0xEA]) := rfl

-- The bytes next to admitted ones and at the ends of the range.
theorem witness_UnsupportedOpcodesAreTheOther202 :
    decodeOpcode 0x01 = none ∧ decodeOpcode 0xFF = none ∧ (machine 0x8000 [0xFF]).peek (machine 0x8000 [0xFF]).pc = 0xFF ∧
    (machine 0x8000 [0x01]).peek (machine 0x8000 [0x01]).pc = 0x01 := ⟨rfl, rfl, rfl, rfl⟩

theorem witness_BranchTargetsAndLabelsAgree : assembleBranch 0x8010 0x800D = some 0xFB ∧ branchTarget 0x8010 0xFB = 0x800D ∧
    assembleBranch 0x8000 0x8083 = none := by decide

theorem witness_WrittenInstructionsAssemble :
    (Mode.absoluteX ∉ admittedModes .stx) ∧ Mode.operandBound .zeroPage ≤ 256 ∧
    (Mode.absoluteY ∈ admittedModes .sta ∧ 65535 < Mode.operandBound .absoluteY) ∧
    (Mode.immediate ∈ admittedModes .lda ∧ 255 < Mode.operandBound .immediate) ∧
    (Mode.implied ∈ admittedModes .hlt ∧ 0 < Mode.operandBound .implied) := by decide

theorem witness_UpdateNZIsTheOnlyFlagWrite :
    (∃ t, exec (.ldaImm 0x80) (machine 0 []) = .next t ∧ t.p = 0xB4) ∧
    (∃ t, exec (.staZp 0x80) (machine 0 []) = .next t ∧ t.p = 0x34) ∧
    Flag.carry ≠ .zero ∧ Flag.carry ≠ .negative := ⟨⟨_, rfl, rfl⟩, ⟨_, rfl, rfl⟩, by decide, by decide⟩

theorem witness_BranchesOnNegativeAndZero :
    (∃ t, exec (.ldaAbs 0x2002) (machine 0 []) = .next t ∧ (machine 0 []).vbl = false) ∧
    (∃ t, exec (.ldaAbs 0x2002) { machine 0 [] with ppuStatus := 0x80 } = .next t ∧
      State.vbl { machine 0 [] with ppuStatus := 0x80 } = true) ∧
    (∃ t, exec .dex { machine 0 [] with x := 0x01 } = .next t ∧ t.x = 0x00) :=
  ⟨⟨_, rfl, rfl⟩, ⟨_, rfl, rfl⟩, ⟨_, rfl, rfl⟩⟩

theorem witness_BranchesOnOverflowAndCarry : ∃ t, exec (.bvs 0x02) (machine 0x8000 []) = .next t ∧ t.pc = 0x8002 :=
  ⟨_, rfl, rfl⟩

theorem witness_HltEndsTheRunAtItsOpcode : (machine 0x8005 [0x00]).peek (machine 0x8005 [0x00]).pc = 0x00 ∧
    (machine 0x2002 [0xA9]).peek (machine 0x2002 [0xA9]).pc = 0x00 := ⟨rfl, rfl⟩

theorem witness_ReadAccessorClearsVblOnce :
    ((machine 0 [] [(0x2001, 0x55)]).memRead 0x2001).1 = 0x55 ∧ (0x2001 : Addr) ≠ 0x2002 ∧ (0x2003 : Addr) ≠ 0x2002 := by decide

theorem witness_StatusReadIsNotIdempotent : ({ machine 0 [] with ppuStatus := 0x80 } : State).ppuStatus.getLsbD 7 = true ∧
    (0x2003 : Addr) ≠ 0x2002 := by decide

theorem witness_WritesStoreLiterally : (0x2001 : Addr) ≠ 0x2002 ∧
    (((machine 0 []).memWrite 0x2001 0x55).memRead 0x2001).1 = 0x55 := by decide

/-- The same two cells written in either order. -/
theorem witness_CanonicalMemoryIsUnique :
    let m := (Memory.write [] 0x0001 0x05).write 0xFFFF 0x07
    let n := (Memory.write [] 0xFFFF 0x07).write 0x0001 0x05
    m.wf = true ∧ n.wf = true ∧ ∀ a : Addr, m.read a = n.read a := ⟨rfl, rfl, fun _ => rfl⟩

theorem witness_MemoryChangesOnlyAtTheStoreAddress :
    (∃ t, exec (.staZpX 0xFF) { machine 0 [] with a := 0x42, x := 0x02 } = .next t ∧
      storeAddress (.staZpX 0xFF) { machine 0 [] with a := 0x42, x := 0x02 } = some 0x0001) ∧
    (∃ t, exec (.ldaZp 0xFF) (machine 0 []) = .next t ∧ storeAddress (.ldaZp 0xFF) (machine 0 []) = none) :=
  ⟨⟨_, rfl, rfl⟩, ⟨_, rfl, rfl⟩⟩

/-- The bytes of the next instruction after a store over its opcode (an admitted byte, a byte that is not, the halt byte), over
its operand, and at 0x2002, where the store is not seen. -/
theorem witness_StoredOpcodeIsFetchedNext :
    (machine 0x8000 []).pc + 3 ≠ 0x2002 ∧
    (∃ t, exec (.staAbs ((machine 0x8000 []).pc + 3)) { machine 0x8000 [] with a := 0xE8 } = .next t ∧
      decode [0xE8, t.peek (t.pc + 1), t.peek (t.pc + 2)] = .ok (.inx, [0x00, 0x00])) ∧
    (∃ t, exec (.staAbs ((machine 0x8000 []).pc + 3)) { machine 0x8000 [] with a := 0x4C } = .next t ∧
      decodeOpcode 0x4C = none) ∧
    (∃ t, exec (.staAbs 0x8004) { machine 0x8000 [0x8D, 0x04, 0x80, 0xA9, 0x11] with a := 0x22 } = .next t ∧
      t.fetch.1 = .instr (.ldaImm 0x22)) ∧
    (∃ t, exec (.staAbs 0x2002) { machine 0x1FFF [] with a := 0x22 } = .next t ∧ t.pc = 0x2002 ∧
      t.fetch.1 = .instr .hlt) :=
  ⟨by decide, ⟨_, rfl, rfl⟩, ⟨_, rfl, rfl⟩, ⟨_, rfl, rfl⟩, ⟨_, rfl, rfl, rfl⟩⟩

theorem witness_DecrementUndoesIncrement : (machine 0 [] [(0x0300, 0xFF)]).mem.wf = true ∧ (0x0300 : Addr) ≠ 0x2002 ∧
    ∃ t u, exec (.incAbs 0x0300) (machine 0 [] [(0x0300, 0xFF)]) = .next t ∧ exec (.decAbs 0x0300) t = .next u :=
  ⟨rfl, by decide, _, _, rfl, rfl⟩

/-- The hypotheses of the statement about a step, as one check. -/
def meetsStepHypotheses (s : State) : Bool :=
  s.runState == .running && s.ticksDue == 0 && s.steps != s.stepBudget &&
    (decode [s.peek s.pc, s.peek (s.pc + 1), s.peek (s.pc + 2)]).isOk

/-- No byte of the instruction at 0x2002, then its first (a HLT read from PPUSTATUS), second and third. -/
theorem witness_StepRunsTheDecodedInstruction :
    meetsStepHypotheses (machine 0x8000 [0xAD, 0x34, 0x12]) = true ∧ inInstruction 0x8000 3 0x2002 = false ∧
    meetsStepHypotheses (machine 0x2002 []) = true ∧ inInstruction 0x2002 1 0x2002 = true ∧
    meetsStepHypotheses (machine 0x2001 [0xAD, 0x34, 0x12]) = true ∧ inInstruction 0x2001 3 0x2002 = true ∧
    meetsStepHypotheses (machine 0x2000 [0xAD, 0x34, 0x12]) = true ∧ inInstruction 0x2000 3 0x2002 = true := by decide

theorem witness_UnsupportedOpcodeEndsTheRun : let s := machine 0x8000 [0x4C]
    s.runState = .running ∧ s.ticksDue = 0 ∧ s.steps ≠ s.stepBudget ∧ decodeOpcode (s.peek s.pc) = none :=
  ⟨rfl, rfl, by decide, rfl⟩

theorem witness_EndedRunIsStuck : RunState.halted 0x8005 ≠ .running ∧ RunState.unsupported 0x4C 0x8000 ≠ .running ∧
    RunState.budgetExhausted ≠ .running := by decide

theorem witness_BudgetIsCheckedBeforeTheFetch :
    (machine 0 []).runState = .running ∧ (machine 0 []).ticksDue = 0 ∧
    ({ machine 0 [] with steps := 100 } : State).steps = ({ machine 0 [] with steps := 100 } : State).stepBudget ∧
    (seen (stepWith referenceSchedule { machine 0 [] with steps := 99 }) (·.runState)) = some (.halted 0x0000) := by decide

theorem witness_AccumulatorAndStackPointerUse : Mnemonic.ldx ∉ [Mnemonic.lda, .txa, .tya] ∧
    Mnemonic.ldx ∉ [Mnemonic.sta, .tax, .tay] ∧ Mnemonic.ldx ≠ .txs ∧ Mnemonic.ldx ≠ .tsx := by decide

theorem witness_IndexRegisterUse : Mnemonic.lda ∉ [Mnemonic.ldx, .tax, .tsx, .inx, .dex] ∧
    readsX (.ldaAbsY 0x0300) = false ∧ readsX (.ldaAbsX 0x0300) = true ∧
    Mnemonic.lda ∉ [Mnemonic.ldy, .tay, .iny, .dey] ∧ readsY (.ldaAbsX 0x0300) = false ∧
    readsY (.ldxZpY 0x10) = true := by decide

theorem witness_PpuCountersAreHiddenFromTheCpu : ∃ t, cpuStep (machine 0x8000 [0xE8]) = .next t ∧ t.x = 0x01 :=
  ⟨_, rfl, rfl⟩

/-- A step that reads no status; the other two do, by a byte fetched and by a data read. -/
theorem witness_TickCommutesWithAStepThatReadsNoStatus :
    (machine 0x8000 [0xAD, 0x01, 0x20]).cpuReads 0x2002 = false ∧ (machine 0x2002 [0xE8]).cpuReads 0x2002 = true ∧
    (machine 0x8000 [0xAD, 0x02, 0x20]).cpuReads 0x2002 = true := by decide

theorem witness_TickAdvancesOneCycle :
    ({ machine 0 [] with cycle := 339 } : State).cycle ≠ 340 ∧
    (∀ line ∈ [240, 261, 239, 260], ({ machine 0 [] with cycle := 340, scanline := line } : State).cycle = 340) ∧
    RunState.budgetExhausted ≠ .running := by decide

theorem witness_FrameIs89342Ticks : 89342 = 341 * 262 ∧
    ({ machine 0 [] with cycle := 340, scanline := 261 } : State).cycle.toNat ≤ 340 ∧
    ({ machine 0 [] with cycle := 340, scanline := 261 } : State).scanline.toNat ≤ 261 ∧
    (machine 0 []).cycle.toNat ≤ 340 ∧ (machine 0 []).scanline.toNat ≤ 261 := by decide

/-- VBL set by a tick, cleared by a tick, cleared by a read. -/
theorem witness_VblChangesOnlyAtItsEdgesAndReads :
    seen (stepWith referenceSchedule { machine 0 [] with ticksDue := 1, cycle := 340, scanline := 240 }) State.vbl = some true ∧
    seen (stepWith referenceSchedule
      { machine 0 [] with ticksDue := 1, cycle := 340, scanline := 261, ppuStatus := 0x80 }) State.vbl = some false ∧
    seen (stepWith referenceSchedule
      { machine 0x8000 [0xAD, 0x02, 0x20] with scanline := 250, ppuStatus := 0x80 }) State.vbl = some false ∧
    ({ machine 0x8000 [0xAD, 0x02, 0x20] with scanline := 250, ppuStatus := 0x80 } : State).cpuReads 0x2002 = true := by decide

/-- A state inside vertical blank that holds the invariant and has a next state under every schedule. -/
theorem witness_EveryActionKeepsTheInvariant :
    State.Inv { machine 0x8000 [0xAD, 0x02, 0x20] with scanline := 261, cycle := 340, ppuStatus := 0x80 } ∧
    ∀ sched : Schedule, ∃ t, stepWith sched
      { machine 0x8000 [0xAD, 0x02, 0x20] with scanline := 261, cycle := 340, ppuStatus := 0x80 } = .next t :=
  ⟨⟨rfl, by decide, by decide, by decide, fun _ => (by decide : 241 ≤ 261), by decide, by decide, by decide, trivial⟩,
    fun _ => ⟨_, rfl⟩⟩

theorem witness_DueTicksRunOut : ({ machine 0 [] with ticksDue := 3 } : State).runState = .running ∧
    ({ machine 0 [] with ticksDue := 3 } : State).ticksDue = 2 + 1 ∧
    ({ machine 0 [] with ticksDue := 1 } : State).ticksDue = 0 + 1 := ⟨rfl, rfl, rfl⟩

theorem witness_EveryRunEndsWithinItsBudget : (machine 0x8000 [0xD0, 0xFE]).runState = .running ∧
    (machine 0x8000 [0xD0, 0xFE]).steps ≤ (machine 0x8000 [0xD0, 0xFE]).stepBudget := by decide

-- R218 gives the three ticks.
theorem witness_ReferenceScheduleOwesThreeTicks : (machine 0x8000 [0xE8]).ticksDue = 0 ∧
    (machine 0x8000 [0xE8]).steps ≠ (machine 0x8000 [0xE8]).stepBudget ∧
    seen (stepWith referenceSchedule (machine 0x8000 [0xE8])) (fun t => (t.runState, t.ticksDue)) =
      some (.running, 3) := by decide

-- R200's codes.
theorem witness_EndedRunYieldsItsTermination :
    State.termination { machine 0 [] with runState := .halted 0x8005 } = some (.halted 0x8005) ∧
    State.termination { machine 0 [] with runState := .unsupported 0x4C 0x8000 } = some (.unsupported 0x4C 0x8000) ∧
    State.termination { machine 0 [] with runState := .budgetExhausted, steps := 100 } = some (.budgetExhausted 100) ∧
    State.termination (machine 0 []) = none ∧
    (Termination.halted 0x8005).code = 1 ∧ (Termination.unsupported 0x4C 0x8000).code = 2 := by decide

-- V-LO3: bytes 4, 5 and 6 of a header with a trainer.
theorem witness_ProgramLoadFailsExactlyWhenListed : (header 1 2 0x04)[4]? = some 1 ∧ (header 1 2 0x04)[5]? = some 2 ∧
    (header 1 2 0x04)[6]? = some 0x04 ∧ (0x04 : Byte).getLsbD 2 = true ∧ (0xF3 : Byte).getLsbD 2 = false :=
  ⟨rfl, rfl, rfl, rfl, rfl⟩

theorem witness_TwoUnitImageFillsTheWindow :
    prgUnits (header 2 0 0 ++ List.replicate 32768 0xE8) = 2 ∧
    prgOffset (header 2 0 0 ++ List.replicate 32768 0xE8) + 32768 ≤ (header 2 0 0 ++ List.replicate 32768 0xE8).length :=
  ⟨rfl, by rw [List.length_append, List.length_replicate]; show 16 + 32768 ≤ 16 + 32768; omega⟩

theorem witness_OneUnitImageIsMirrored :
    prgUnits (header 1 0 0 ++ List.replicate 16384 0xE8) = 1 ∧
    prgOffset (header 1 0 0 ++ List.replicate 16384 0xE8) + 16384 ≤ (header 1 0 0 ++ List.replicate 16384 0xE8).length :=
  ⟨rfl, by rw [List.length_append, List.length_replicate]; show 16 + 16384 ≤ 16 + 16384; omega⟩

/-- Each clause's premise: a short file, a bad signature, a size of zero units, a pattern that is too short, and a file with
nothing wrong. -/
theorem witness_SetupFailuresComeInStageOrder :
    (List.replicate 15 (0x4E : Byte)).length < 16 ∧
    List.take 4 [0x4E, 0x45, 0x53, (0x1B : Byte)] ≠ [0x4E, 0x45, 0x53, 0x1A] ∧
    (∀ b4 b5 b6 (data : List Byte), 16 ≤ (header b4 b5 b6 ++ data).length ∧
      (header b4 b5 b6 ++ data).take 4 = [0x4E, 0x45, 0x53, 0x1A]) ∧
    loadProgram (header 0 0 0) [] = none ∧
    ((loadProgram (header 2 1 0 ++ List.replicate 32768 0xE8) []).isSome = true ∧
      loadPatternData (header 2 1 0 ++ List.replicate 32768 0xE8) = none) ∧
    ((loadProgram (header 1 0 0 ++ List.replicate 16384 0xE8) []).isSome = true ∧
      loadPatternData (header 1 0 0 ++ List.replicate 16384 0xE8) = some (List.replicate 8192 0)) :=
  ⟨by decide, by decide,
    fun _ _ _ _ => ⟨by rw [List.length_append]; exact Nat.le_add_right 16 _, rfl⟩, rfl,
    test_load_two_units_short_pattern _ List.length_replicate, test_load_one_unit _ List.length_replicate⟩

/-- No pattern data asked for; one unit asked for and missing; one unit asked for and there (over a program of zero units). -/
theorem witness_PatternDataFollowsTheProgram :
    chrUnits (header 1 0 0) = 0 ∧ chrUnits (header 0 1 0) ≠ 0 ∧ loadPatternData (header 0 1 0) = none ∧
    chrUnits (header 0 1 0 ++ List.replicate 8192 0x3C) ≠ 0 ∧
    loadPatternData (header 0 1 0 ++ List.replicate 8192 0x3C) = some (List.replicate 8192 0x3C) :=
  ⟨rfl, by decide, rfl, by rw [header_chrUnits]; decide, test_load_pattern _ List.length_replicate⟩

theorem witness_LaunchedMachineIsReadyAndInvariant : Memory.wf [] = true ∧
    ∃ s pattern, launch (some (header 1 0 0 ++ List.replicate 16384 0xE8)) [] 5 referenceSchedule = .ready s pattern := by
  obtain ⟨hs, hp⟩ := test_load_one_unit (List.replicate 16384 0xE8) List.length_replicate
  obtain ⟨m, hm⟩ := Option.isSome_iff_exists.mp hs
  refine ⟨rfl, State.afterReset m 5 0, List.replicate 8192 0, ?_⟩
  simp only [launch, header_valid, if_true, hm, hp]
  rfl

end Sys2Proof.Tests
end

section
/-! PROOFS. What every instruction does to the status byte P. -/

namespace Sys2Proof.Machine

/-- The instructions that recompute N and Z (R29). -/
def writesFlags (i : Instr) : Bool :=
  i.mnemonic ∈ [.lda, .ldx, .ldy, .tax, .tay, .txa, .tya, .tsx, .txs, .inc, .inx, .iny, .dec, .dex, .dey]

/-- `UpdateNZ` leaves every flag but N and Z. -/
theorem flagOf_updateNZ_other (v p : Byte) {f : Flag} (hz : f ≠ .zero) (hn : f ≠ .negative) :
    flagOf (updateNZ v p) f = flagOf p f := by
  rw [flagOf_updateNZ, if_neg hn, if_neg hz]

/-- `UpdateNZ` never leaves N and Z both 1: zero has bit 7 clear. -/
theorem updateNZ_flagsApart (v p : Byte) :
    ¬ (flagOf (updateNZ v p) .negative = true ∧ flagOf (updateNZ v p) .zero = true) := by
  rintro ⟨hn, hz⟩
  have hn : v.getLsbD 7 = true := by simpa [flagOf_updateNZ] using hn
  have hv : v = 0 := by simpa [flagOf_updateNZ] using hz
  rw [hv] at hn
  exact absurd hn (by decide)

/-- The whole effect of an instruction on P: `UpdateNZ` of some value, or nothing (R29). -/
theorem exec_flags (i : Instr) (s : State) :
    ∃ t, exec i s = .next t ∧ if writesFlags i then ∃ v, t.p = updateNZ v s.p else t.p = s.p := by
  by_cases hw : writesFlags i = true
  · simp only [if_pos hw]
    cases i <;> cases hw <;> refine ⟨_, rfl, ?_⟩ <;> simp <;> exact ⟨_, rfl⟩
  · simp only [if_neg hw]
    cases i <;> simp only [Bool.not_eq_true] at hw <;> cases hw <;> exact ⟨_, rfl, by simp⟩

/-- An instruction changes no flag but N and Z (R28). -/
theorem exec_keeps_flag {i : Instr} {s t : State} (h : exec i s = .next t) {f : Flag} (hz : f ≠ .zero)
    (hn : f ≠ .negative) : flagOf t.p f = flagOf s.p f := by
  obtain ⟨u, hu, -, -, -, hp, -⟩ := exec_keeps i s
  obtain rfl : u = t := Host.Outcome.next.inj (hu.symm.trans h)
  rcases hp with hp | ⟨v, hp⟩ <;> rw [hp]
  exact flagOf_updateNZ_other v s.p hz hn

/-! ### Branches -/

/-- The branch law (R170), from an opcode byte and the condition the branch computes. -/
theorem branches_of_exec {i : Byte → Instr} {op : Byte} {f : Flag} {want : Bool}
    (henc : ∀ b1, encode (i b1) = [op, b1])
    (hexec : ∀ b1 s, ∃ taken, exec (i b1) s = .next (s.branchIf taken b1) ∧
      (taken = true ↔ flagOf s.p f = want)) :
    Claims.Branches i op f want := by
  intro b1
  refine ⟨henc b1, fun s => ?_⟩
  obtain ⟨taken, hex, htaken⟩ := hexec b1 s
  rw [hex, State.branchIf_eq]
  simp only [htaken]
  rfl

end Sys2Proof.Machine

namespace Sys2Proof.Proofs

open Sys2Proof.Machine

/-- Settles O9: the flags of `updateNZ` by `flagOf_updateNZ`, and the effect of every instruction on P. -/
theorem updateNZIsTheOnlyFlagWrite : Obligations.UpdateNZIsTheOnlyFlagWrite := by
  refine ⟨fun v p => ⟨?_, ?_, fun f hz hn => flagOf_updateNZ_other v p hz hn, updateNZ_flagsApart v p⟩, by decide,
    fun i s t h => ?_⟩
  · simp [flagOf_updateNZ]
  · simp [flagOf_updateNZ]
  · obtain ⟨u, hu, hp⟩ := exec_flags i s
    obtain rfl : u = t := Host.Outcome.next.inj (hu.symm.trans h)
    simpa only [writesFlags, decide_eq_true_eq] using hp

/-- Settles O22: each branch by the branch law, V and C because an instruction changes no flag but N and Z. -/
theorem branchesOnOverflowAndCarry : Obligations.BranchesOnOverflowAndCarry := by
  refine ⟨?bvc, ?bvs, ?bcc, ?bcs, fun i s t h => ⟨?_, ?_⟩, rfl, rfl⟩
  case bvc => exact branches_of_exec (fun _ => rfl) (fun _ s => ⟨!flagOf s.p .overflow, rfl, by simp⟩)
  case bvs => exact branches_of_exec (fun _ => rfl) (fun _ s => ⟨flagOf s.p .overflow, rfl, Iff.rfl⟩)
  case bcc => exact branches_of_exec (fun _ => rfl) (fun _ s => ⟨!flagOf s.p .carry, rfl, by simp⟩)
  case bcs => exact branches_of_exec (fun _ => rfl) (fun _ s => ⟨flagOf s.p .carry, rfl, Iff.rfl⟩)
  · exact exec_keeps_flag h (by decide) (by decide)
  · exact exec_keeps_flag h (by decide) (by decide)

end Sys2Proof.Proofs
end

section
/-! PROOFS. Which registers an instruction reads and writes, and what a step leaves of the PPU's counters. -/

namespace Sys2Proof.Machine

open Sys2Proof.Claims

/-- A read's effect as one record update, so that no proof about another field splits on the address. -/
theorem State.touch_record (s : State) (ad : Addr) : s.touch ad =
    { s with ppuStatus := if ad = Config.ppuStatusAddr then clearVbl s.ppuStatus else s.ppuStatus } := by
  unfold State.touch; split <;> rfl

/-- The instructions that read A (R21). -/
def readsA (i : Instr) : Bool := i.mnemonic ∈ [.sta, .tax, .tay]

/-- The instructions that write A (R21). -/
def writesA (i : Instr) : Bool := i.mnemonic ∈ [.lda, .txa, .tya]

/-- The instructions that write X (R22). -/
def writesX (i : Instr) : Bool := i.mnemonic ∈ [.ldx, .tax, .tsx, .inx, .dex]

/-- The instructions that write Y (R23). -/
def writesY (i : Instr) : Bool := i.mnemonic ∈ [.ldy, .tay, .iny, .dey]

/-- The instruction that reads SP (R24). -/
def readsSp (i : Instr) : Bool := i.mnemonic = .tsx

/-- The instruction that writes SP (R24). -/
def writesSp (i : Instr) : Bool := i.mnemonic = .txs

/-- The state with other values in the four 8-bit registers and the PPU's counters. -/
def State.withRegisters (s : State) (a x y sp : Byte) (c l : Counter) : State :=
  { s with a := a, x := x, y := y, sp := sp, cycle := c, scanline := l }

/-- A value that is `w` when `b` holds, written so that it shows. -/
theorem eq_ite_of_imp {b : Bool} {v w : Byte} (h : b = true → v = w) : v = if b then w else v := by
  cases b with
  | false => rfl
  | true => exact h rfl

/-- The meaning of an instruction in two states that agree on what it reads (R21 to R24, R37): a register it does not
write, and each counter, comes out as it went in, and everything else comes out the same. -/
theorem exec_withRegisters {i : Instr} {s : State} {a x y sp : Byte} (c l : Counter)
    (ha : readsA i = true → a = s.a) (hx : readsX i = true → x = s.x) (hy : readsY i = true → y = s.y)
    (hsp : readsSp i = true → sp = s.sp) :
    exec i (s.withRegisters a x y sp c l) = mapNext (fun t => t.withRegisters (if writesA i then t.a else a)
      (if writesX i then t.x else x) (if writesY i then t.y else y) (if writesSp i then t.sp else sp) c l)
      (exec i s) := by
  rw [eq_ite_of_imp ha, eq_ite_of_imp hx, eq_ite_of_imp hy, eq_ite_of_imp hsp]
  cases i <;> refine congrArg Host.Outcome.next ?_ <;>
    simp -failIfUnchanged only [State.retire_loadA, State.retire_loadX, State.retire_loadY, State.retire_modify,
      State.branchIf_eq, State.touch_record] <;> rfl

/-- What an instruction leaves of the registers and the counters: the two-state law with both states the same. -/
theorem exec_frame {i : Instr} {s t : State} (ht : exec i s = .next t) :
    t.withRegisters (if writesA i then t.a else s.a) (if writesX i then t.x else s.x) (if writesY i then t.y else s.y)
      (if writesSp i then t.sp else s.sp) s.cycle s.scanline = t := by
  have h := exec_withRegisters (i := i) (s := s) s.cycle s.scanline (fun _ => rfl) (fun _ => rfl) (fun _ => rfl)
    (fun _ => rfl)
  rw [ht] at h
  exact Host.Outcome.next.inj (h.symm.trans ht)

section
variable {i : Instr} {s t : State} (ht : exec i s = .next t)
include ht

theorem exec_keeps_a (hw : writesA i = false) : t.a = s.a := by
  simpa [State.withRegisters, hw] using (congrArg State.a (exec_frame ht)).symm

theorem exec_keeps_x (hw : writesX i = false) : t.x = s.x := by
  simpa [State.withRegisters, hw] using (congrArg State.x (exec_frame ht)).symm

theorem exec_keeps_y (hw : writesY i = false) : t.y = s.y := by
  simpa [State.withRegisters, hw] using (congrArg State.y (exec_frame ht)).symm

theorem exec_keeps_sp (hw : writesSp i = false) : t.sp = s.sp := by
  simpa [State.withRegisters, hw] using (congrArg State.sp (exec_frame ht)).symm

/-! ### One register changed: the two-state law, with the frame for what stays -/

theorem exec_setA (hr : readsA i = false) (v : Byte) :
    exec i (s.setA v) = .next (t.setA (if writesA i then t.a else v)) := by
  have h := exec_withRegisters (i := i) (s := s) (a := v) s.cycle s.scanline (by simp [hr]) (fun _ => rfl)
    (fun _ => rfl) (fun _ => rfl)
  rw [ht] at h
  exact h.trans (congrArg (fun u : State => Host.Outcome.next (u.setA _)) (exec_frame ht))

theorem exec_setX (hr : readsX i = false) (v : Byte) :
    exec i (s.setX v) = .next (t.setX (if writesX i then t.x else v)) := by
  have h := exec_withRegisters (i := i) (s := s) (x := v) s.cycle s.scanline (fun _ => rfl) (by simp [hr])
    (fun _ => rfl) (fun _ => rfl)
  rw [ht] at h
  exact h.trans (congrArg (fun u : State => Host.Outcome.next (u.setX _)) (exec_frame ht))

theorem exec_setY (hr : readsY i = false) (v : Byte) :
    exec i (s.setY v) = .next (t.setY (if writesY i then t.y else v)) := by
  have h := exec_withRegisters (i := i) (s := s) (y := v) s.cycle s.scanline (fun _ => rfl) (fun _ => rfl)
    (by simp [hr]) (fun _ => rfl)
  rw [ht] at h
  exact h.trans (congrArg (fun u : State => Host.Outcome.next (u.setY _)) (exec_frame ht))

theorem exec_setSp (hr : readsSp i = false) (v : Byte) :
    exec i (s.setSp v) = .next (t.setSp (if writesSp i then t.sp else v)) := by
  have h := exec_withRegisters (i := i) (s := s) (sp := v) s.cycle s.scanline (fun _ => rfl) (fun _ => rfl)
    (fun _ => rfl) (by simp [hr])
  rw [ht] at h
  exact h.trans (congrArg (fun u : State => Host.Outcome.next (u.setSp _)) (exec_frame ht))

end

/-- Of the instructions that write X, INX and DEX also read it (R22). -/
theorem writesX_of_not_readsX {i : Instr} (h : readsX i = false) :
    writesX i = decide (i.mnemonic ∈ [.ldx, .tax, .tsx]) := by
  have hinx : i.mnemonic ≠ .inx := fun e => by simp [readsX, e] at h
  have hdex : i.mnemonic ≠ .dex := fun e => by simp [readsX, e] at h
  simp [writesX, hinx, hdex]

/-- Of the instructions that write Y, INY and DEY also read it (R23). -/
theorem writesY_of_not_readsY {i : Instr} (h : readsY i = false) :
    writesY i = decide (i.mnemonic ∈ [.ldy, .tay]) := by
  have hiny : i.mnemonic ≠ .iny := fun e => by simp [readsY, e] at h
  have hdey : i.mnemonic ≠ .dey := fun e => by simp [readsY, e] at h
  simp [writesY, hiny, hdey]

/-! ### The PPU's counters -/

/-- The state with other PPU counters. -/
def State.withCounters (s : State) (c l : Counter) : State := { s with cycle := c, scanline := l }

/-- An instruction reads neither counter and keeps both (R37). -/
theorem exec_withCounters (i : Instr) (s : State) (c l : Counter) :
    exec i (s.withCounters c l) = mapNext (fun t => t.withCounters c l) (exec i s) := by
  obtain ⟨t, ht, -⟩ := exec_status i s
  have h := exec_withRegisters (i := i) (s := s) c l (fun _ => rfl) (fun _ => rfl) (fun _ => rfl) (fun _ => rfl)
  rw [ht] at h ⊢
  exact h.trans (congrArg (fun u : State => Host.Outcome.next (u.withCounters c l)) (exec_frame ht))

/-- A fetch reads neither counter and keeps both (R37). -/
theorem State.fetch_withCounters (s : State) (c l : Counter) :
    (s.withCounters c l).fetch = (s.fetch.1, s.fetch.2.withCounters c l) := by
  cases hd : decodeOpcode (s.peek s.pc) with
  | none =>
    rw [State.fetch_unsupported s hd, State.fetch_unsupported (s.withCounters c l) hd]
    simp only [State.touch_record]; rfl
  | some row =>
    rw [State.fetch_row s row hd, State.fetch_row (s.withCounters c l) row hd]
    cases row.mode <;> simp only [Mode.operandCount, State.touch_record] <;> rfl

/-- A CPU step reads neither counter and keeps both (R37). -/
theorem cpuStep_withCounters (s : State) (c l : Counter) :
    cpuStep (s.withCounters c l) = mapNext (fun t => t.withCounters c l) (cpuStep s) := by
  unfold cpuStep
  rw [State.fetch_withCounters]
  rcases s.fetch with ⟨f, t⟩
  cases f with
  | instr i => exact exec_withCounters i t c l
  | unsupported op => rfl

end Sys2Proof.Machine

namespace Sys2Proof.Proofs

open Sys2Proof.Machine Sys2Proof.Claims

/-- Settles O37: the frame of `exec`, and the two-state law with A or SP changed. -/
theorem accumulatorAndStackPointerUse : Obligations.AccumulatorAndStackPointerUse := by
  intro i s v
  obtain ⟨t, ht, -⟩ := exec_status i s
  refine ⟨t, ht, fun h => exec_keeps_a ht ?_, fun h => ?_, fun h => exec_keeps_sp ht ?_, fun h => ?_⟩
  · exact decide_eq_false h
  · have ha := exec_setA ht (decide_eq_false h) v
    simp only [writesA, decide_eq_true_eq] at ha
    exact ha
  · exact decide_eq_false h
  · have hsp := exec_setSp ht (decide_eq_false h) v
    simp only [writesSp, decide_eq_true_eq] at hsp
    exact hsp

/-- Settles O38: the frame of `exec`, and the two-state law with X or Y changed. -/
theorem indexRegisterUse : Obligations.IndexRegisterUse := by
  intro i s v
  obtain ⟨t, ht, -⟩ := exec_status i s
  refine ⟨t, ht, fun h => exec_keeps_x ht ?_, fun h => ?_, fun h => exec_keeps_y ht ?_, fun h => ?_⟩
  · exact decide_eq_false h
  · have hx := exec_setX ht h v
    simp only [writesX_of_not_readsX h, decide_eq_true_eq] at hx
    exact hx
  · exact decide_eq_false h
  · have hy := exec_setY ht h v
    simp only [writesY_of_not_readsY h, decide_eq_true_eq] at hy
    exact hy

/-- Settles O39: a CPU step commutes with a change of the counters; a change to their own values gives the frame. -/
theorem ppuCountersAreHiddenFromTheCpu : Obligations.PpuCountersAreHiddenFromTheCpu := by
  intro s t c l h
  have hself := cpuStep_withCounters s s.cycle s.scanline
  have hother := cpuStep_withCounters s c l
  rw [h] at hself hother
  have ht : t = t.withCounters s.cycle s.scanline := Host.Outcome.next.inj (h.symm.trans hself)
  exact ⟨by rw [ht]; rfl, by rw [ht]; rfl, hother⟩

end Sys2Proof.Proofs
end

section
/-! PROOFS. The invariant, kept by each shared operation, then by every action. -/

namespace Sys2Proof.Machine

/-- The invariant is kept by any change of the PPU's registers that keeps its own four clauses. -/
theorem State.Inv.withPpu {s : State} (h : s.Inv) {c l : Counter} {v : Byte} (hc : c.toNat ≤ 340)
    (hl : l.toNat ≤ 261) (hv : v &&& 0x7F = 0) (hb : v.getLsbD 7 = true → 241 ≤ l.toNat) :
    State.Inv { s with cycle := c, scanline := l, ppuStatus := v } :=
  ⟨h.memory, hc, hl, hv, hb, h.fixedFlags, h.flagsApart, h.budget, h.ended⟩

/-- The invariant does not speak of the ticks that are due. -/
theorem State.Inv.withTicksDue {s : State} (h : s.Inv) (n : Nat) : State.Inv { s with ticksDue := n } :=
  ⟨h.memory, h.cycle, h.scanline, h.status, h.blank, h.fixedFlags, h.flagsApart, h.budget, h.ended⟩

/-- Ending a run keeps the invariant when the final run state agrees with PC or the budget (R204). -/
theorem State.Inv.endRun {s : State} (h : s.Inv) {r : RunState} (hr : (s.endRun r).endConsistent) :
    (s.endRun r).Inv :=
  ⟨h.memory, h.cycle, h.scanline, h.status, h.blank, h.fixedFlags, h.flagsApart, h.budget, hr⟩

/-- Clearing VBL keeps the invariant: it has bits 6:0 as they are and bit 7 zero. -/
theorem State.Inv.clearStatus {s : State} (h : s.Inv) : State.Inv { s with ppuStatus := clearVbl s.ppuStatus } :=
  h.withPpu h.cycle h.scanline ((clearVbl_low _).trans h.status)
    (fun hv => absurd ((clearVbl_vbl _).symm.trans hv) Bool.false_ne_true)

theorem State.Inv.touch {s : State} (h : s.Inv) (a : Addr) : (s.touch a).Inv := by
  unfold State.touch
  split
  · exact h.clearStatus
  · exact h

/-- A fetch is one to three reads. -/
theorem State.Inv.fetch {s : State} (h : s.Inv) : s.fetch.2.Inv := by
  cases hd : decodeOpcode (s.peek s.pc) with
  | none =>
    rw [State.fetch_unsupported s hd]
    exact h.touch _
  | some row =>
    rw [State.fetch_row s row hd]
    split
    · exact h.touch _
    · exact (h.touch _).touch _
    · exact ((h.touch _).touch _).touch _

/-- A tick keeps the invariant (R211 to R214): VBL is set on entering scanline 241 and cleared on leaving 261. -/
theorem State.Inv.tick {s : State} (h : s.Inv) : s.tick.Inv := by
  have hcyc := h.cycle
  have hline := h.scanline
  rcases State.tick_cases s with ⟨hc, e⟩ | ⟨-, -, e⟩ | ⟨-, -, e⟩ | ⟨-, -, hl, e⟩ <;> rw [e]
  · have : s.cycle.toNat ≠ 340 := fun hn => hc (BitVec.eq_of_toNat_eq hn)
    exact h.withPpu (by bv_omega) hline h.status h.blank
  · exact h.withPpu (by decide) (by decide) ((setVbl_low _).trans h.status) (fun _ => by decide)
  · exact h.withPpu (by decide) (by decide) ((clearVbl_low _).trans h.status)
      (fun hv => absurd ((clearVbl_vbl _).symm.trans hv) Bool.false_ne_true)
  · have : s.scanline.toNat ≠ 261 := fun hn => hl (BitVec.eq_of_toNat_eq hn)
    have hnext : (s.scanline + 1).toNat = s.scanline.toNat + 1 := by bv_omega
    exact h.withPpu (by decide) (by omega) h.status (fun hv => by have := h.blank hv; omega)

theorem State.Inv.handOver {s : State} (h : s.Inv) (sched : Schedule) : (s.handOver sched).Inv := by
  by_cases hr : s.runState = .running
  · rw [State.handOver_running s sched hr]
    exact h.withTicksDue _
  · rwa [State.handOver_ended s sched hr]

/-- HLT ends the run at its own address; any other instruction keeps the run state and counts one step (R110, R190). -/
theorem exec_run (i : Instr) (s : State) : ∃ t, exec i s = .next t ∧
    (t = s.endRun (.halted s.pc) ∨ (t.runState = s.runState ∧ t.steps = s.steps + 1)) := by
  cases i
  case hlt => exact ⟨_, rfl, .inl rfl⟩
  all_goals exact ⟨_, rfl, .inr ⟨by simp, by simp⟩⟩

/-- An instruction of a running machine within its budget keeps the invariant. -/
theorem State.Inv.exec {s t : State} (h : s.Inv) (hr : s.runState = .running) (hb : s.steps < s.stepBudget)
    {i : Instr} (ht : exec i s = .next t) : t.Inv := by
  obtain ⟨t₁, e₁, hrun⟩ := exec_run i s
  obtain ⟨t₂, e₂, hmem, hc, hl, hp, hbud⟩ := exec_keeps i s
  obtain ⟨t₃, e₃, hstatus⟩ := exec_status i s
  obtain rfl : t₁ = t := Host.Outcome.next.inj (e₁.symm.trans ht)
  obtain rfl : t₂ = t₁ := Host.Outcome.next.inj (e₂.symm.trans ht)
  obtain rfl : t₃ = t₂ := Host.Outcome.next.inj (e₃.symm.trans ht)
  rcases hrun with rfl | ⟨hrun, hsteps⟩
  · exact h.endRun rfl
  · have hppu : t₃.ppuStatus &&& 0x7F = 0 ∧ (t₃.ppuStatus.getLsbD 7 = true → 241 ≤ s.scanline.toNat) := by
      rw [hstatus]
      split
      · exact ⟨h.clearStatus.status, h.clearStatus.blank⟩
      · exact ⟨h.status, h.blank⟩
    have hflags : t₃.p &&& 0x7D = s.p &&& 0x7D ∧
        ¬ (flagOf t₃.p .negative = true ∧ flagOf t₃.p .zero = true) := by
      rcases hp with hp | ⟨v, hp⟩ <;> rw [hp]
      · exact ⟨rfl, h.flagsApart⟩
      · exact ⟨updateNZ_other_bits v s.p, updateNZ_flagsApart v s.p⟩
    exact {
      memory := hmem h.memory
      cycle := by rw [hc]; exact h.cycle
      scanline := by rw [hl]; exact h.scanline
      status := hppu.1
      blank := fun hv => by rw [hl]; exact hppu.2 hv
      fixedFlags := hflags.1.trans h.fixedFlags
      flagsApart := hflags.2
      budget := by omega
      ended := by simp only [State.endConsistent, hrun, hr] }

/-- A CPU step of a running machine within its budget keeps the invariant. -/
theorem State.Inv.cpuStep {s u : State} (h : s.Inv) (hr : s.runState = .running) (hb : s.steps < s.stepBudget)
    (hu : cpuStep s = .next u) : u.Inv := by
  have hf := State.fetch_state s
  rcases cpuStep_cases s with ⟨i, -, hi⟩ | ⟨op, -, hop⟩
  · exact h.fetch.exec (by rw [hf]; exact hr) (by rw [hf]; exact hb) (hi.symm.trans hu)
  · obtain rfl := Host.Outcome.next.inj (hop.symm.trans hu)
    exact h.fetch.endRun rfl

/-- Every action of a run keeps the invariant. -/
theorem State.Inv.stepWith {sched : Schedule} {s t : State} (h : s.Inv) (ht : stepWith sched s = .next t) :
    t.Inv := by
  obtain ⟨hr, ⟨n, -, rfl⟩ | ⟨-, hb, rfl⟩ | ⟨-, hb, u, hu, rfl⟩⟩ := stepWith_cases ht
  · exact h.tick.withTicksDue n
  · exact h.endRun hb
  · exact (h.cpuStep hr (Nat.lt_of_le_of_ne h.budget hb) hu).handOver sched

/-- The reset vector is not PPUSTATUS: reading it has no effect, and gives the two cells, the low byte first (R56). -/
theorem State.memRead16_resetVector (s : State) :
    s.memRead16 Config.resetVector = (joinBytes (s.mem.read 0xFFFD) (s.mem.read 0xFFFC), s) := by
  have hlo : (0xFFFC : Addr) ≠ Config.ppuStatusAddr := by decide
  have hhi : (0xFFFD : Addr) ≠ Config.ppuStatusAddr := by decide
  show (joinBytes ((s.touch 0xFFFC).peek 0xFFFD) (s.peek 0xFFFC), (s.touch 0xFFFC).touch 0xFFFD) = _
  rw [State.touch_plain s hlo, State.touch_plain s hhi, State.peek_plain s hlo, State.peek_plain s hhi]

end Sys2Proof.Machine

namespace Sys2Proof.Proofs

open Sys2Proof.Machine

/-- Settles O46: a tick, the end by the budget and a CPU step each keep the invariant. -/
theorem everyActionKeepsTheInvariant : Obligations.EveryActionKeepsTheInvariant :=
  ⟨fun _ _ _ h ht => h.stepWith ht, fun _ _ h ht => h.stepWith ht⟩

/-- Settles O45, clause by clause; the budget is a free value, and no step count is below 0. -/
theorem invariantHoldsAtReset : Obligations.InvariantHoldsAtReset where
  memory := rfl
  cycle := by decide
  scanline := by decide
  status := by decide
  blank := fun hv => absurd hv (by decide)
  fixedFlags := by decide
  flagsApart := by decide
  budget := Nat.zero_le _
  ended := trivial

/-- Settles O34: each final run state has its own fault, under every schedule. -/
theorem endedRunIsStuck : Obligations.EndedRunIsStuck := by
  intro sched s hs
  unfold step stepWith
  cases hr : s.runState with
  | running => exact absurd hr hs
  | halted addr => exact ⟨_, rfl, rfl, rfl⟩
  | unsupported op addr => exact ⟨_, rfl, rfl, rfl, rfl⟩
  | budgetExhausted => exact ⟨_, rfl, rfl, trivial⟩

/-- Settles O52: the reset vector lies in two cells that nothing has written, so PC is the unwritten byte twice. -/
theorem stateResetIsTheResetProcedure : Obligations.StateResetIsTheResetProcedure := by
  unfold Obligations.StateResetIsTheResetProcedure State.afterReset State.cpuReset
  rw [State.memRead16_resetVector]
  rfl

end Sys2Proof.Proofs
end

section
/-! PROOFS. The PPU's position and VBL after any number of ticks from its reset. -/

namespace Sys2Proof.Machine

/-- Setting VBL in a status that has at most that bit gives 0x80, whatever it was. -/
theorem setVbl_status (b : Prop) [Decidable b] : setVbl (if b then 0x80 else 0x00) = 0x80 := by split <;> rfl

/-- Clearing VBL in a status that has at most that bit gives 0x00, whatever it was. -/
theorem clearVbl_status (b : Prop) [Decidable b] : clearVbl (if b then 0x80 else 0x00) = 0x00 := by split <;> rfl

/-- Where the PPU is `n` ticks after its reset (R215), with VBL as the scanline says (R213, R214). -/
def State.ppuAfter (s : State) (n : Nat) : State :=
  { s with
    cycle := BitVec.ofNat 9 (n % 341), scanline := BitVec.ofNat 9 (n / 341 % 262),
    ppuStatus := if 241 ≤ n / 341 % 262 then 0x80 else 0x00 }

/-- One more tick, by the three fields a tick can write. -/
theorem State.tick_ppuAfter (s : State) (n : Nat) : (s.ppuAfter n).tick = s.ppuAfter (n + 1) := by
  have hcyc : (s.ppuAfter n).cycle.toNat = n % 341 := by
    simp only [State.ppuAfter, BitVec.toNat_ofNat]
    omega
  have hline : (s.ppuAfter n).scanline.toNat = n / 341 % 262 := by
    simp only [State.ppuAfter, BitVec.toNat_ofNat]
    omega
  obtain ⟨hc, hl, hv⟩ := State.tick_toNat (s.ppuAfter n) (by omega) (by omega)
  rw [hcyc] at hc hl hv
  rw [hline] at hl hv
  have ec : (s.ppuAfter n).tick.cycle = (s.ppuAfter (n + 1)).cycle := by
    apply BitVec.eq_of_toNat_eq
    rw [hc]
    simp only [State.ppuAfter, BitVec.toNat_ofNat]
    omega
  have el : (s.ppuAfter n).tick.scanline = (s.ppuAfter (n + 1)).scanline := by
    apply BitVec.eq_of_toNat_eq
    rw [hl]
    simp only [State.ppuAfter, BitVec.toNat_ofNat]
    split <;> omega
  have ev : (s.ppuAfter n).tick.ppuStatus = (s.ppuAfter (n + 1)).ppuStatus := by
    rw [hv]
    simp only [State.ppuAfter, setVbl_status, clearVbl_status]
    split
    · rw [if_pos (by omega)]
    · split
      · rw [if_neg (by omega)]
      · have hsame : 241 ≤ n / 341 % 262 ↔ 241 ≤ (n + 1) / 341 % 262 := by omega
        simp only [hsame]
  rw [State.tick_eq, ec, el, ev]
  rfl

/-- Any number of ticks after a reset of the PPU. -/
theorem State.ticks_ppuAfter (s : State) (n : Nat) : State.ticks n (s.ppuAfter 0) = s.ppuAfter n := by
  induction n with
  | zero => rfl
  | succ n ih => rw [State.ticks_succ, ih, State.tick_ppuAfter]

end Sys2Proof.Machine

namespace Sys2Proof.Proofs

open Sys2Proof.Machine

/-- Settles O42: the reset state is 0 ticks after its own PPU reset. -/
theorem ppuStateAfterTicksFromReset : Obligations.PpuStateAfterTicksFromReset :=
  State.ticks_ppuAfter State.reset

end Sys2Proof.Proofs
end

section
/-! PROOFS. The accessor, the write, and a memory in canonical form: one list for one content. -/

namespace Sys2Proof.Machine

open Sys2Proof.Claims

/-- Clearing VBL keeps bits 6 to 0 (R52). -/
theorem clearVbl_getLsbD_low (v : Byte) {k : Nat} (hk : k < 7) : (clearVbl v).getLsbD k = v.getLsbD k := by
  unfold clearVbl
  interval_cases k <;> simp

/-! ### The canonical form -/

/-- A canonical memory's first cell is found under its own address, and it is no unwritten byte. -/
theorem Memory.lookup_head_ne {k : Nat} {v : Byte} {m : Memory} (h : Memory.wf ((k, v) :: m) = true) :
    Memory.lookup ((k, v) :: m) k ≠ Config.unwrittenByte := by
  obtain ⟨-, -, hv, -⟩ := (Memory.wf_cons _ _).mp h
  simpa [Memory.lookup_cons] using hv

/-- Below every listed address a memory reads as unwritten. -/
theorem Memory.lookup_of_lt {m : Memory} {n : Nat} (h : ∀ c ∈ m, n < c.1) : m.lookup n = Config.unwrittenByte := by
  induction m with
  | nil => rfl
  | cons c m ih =>
    have hc : c.1 ≠ n := (h c List.mem_cons_self).ne'
    exact (if_neg hc).trans (ih fun d hd => h d (List.mem_cons_of_mem _ hd))

/-- In a canonical memory no address below the first cell's holds a byte. -/
theorem Memory.head_le_of_lookup_ne {k n : Nat} {v : Byte} {m : Memory} (h : Memory.wf ((k, v) :: m) = true)
    (hn : Memory.lookup ((k, v) :: m) n ≠ Config.unwrittenByte) : k ≤ n := by
  obtain ⟨hrise, -⟩ := (Memory.wf_cons _ _).mp h
  by_contra hlt
  have hlt : n < k := Nat.lt_of_not_le hlt
  refine hn (Memory.lookup_of_lt fun c hc => ?_)
  rcases List.mem_cons.mp hc with rfl | hc
  · exact hlt
  · exact hlt.trans (hrise c hc)

/-- Canonical memories that agree below 65536 are the same list: their first cells have the same address, each being the
least that holds a byte, and so on along the lists. -/
theorem Memory.eq_of_lookup_eq {m n : Memory} (hm : m.wf = true) (hn : n.wf = true)
    (h : ∀ j < 65536, m.lookup j = n.lookup j) : m = n := by
  induction m generalizing n with
  | nil =>
    cases n with
    | nil => rfl
    | cons d n =>
      obtain ⟨-, hd, -⟩ := (Memory.wf_cons _ _).mp hn
      exact absurd (h d.1 hd).symm (Memory.lookup_head_ne hn)
  | cons c m ih =>
    obtain ⟨k, v⟩ := c
    obtain ⟨hmrise, hk, -, hmwf⟩ := (Memory.wf_cons _ _).mp hm
    cases n with
    | nil => exact absurd (h k hk) (Memory.lookup_head_ne hm)
    | cons d n =>
      obtain ⟨l, w⟩ := d
      obtain ⟨hnrise, hl, -, hnwf⟩ := (Memory.wf_cons _ _).mp hn
      have hlk : l ≤ k := Memory.head_le_of_lookup_ne hn (h k hk ▸ Memory.lookup_head_ne hm)
      have hkl : k ≤ l := Memory.head_le_of_lookup_ne hm ((h l hl).symm ▸ Memory.lookup_head_ne hn)
      obtain rfl : k = l := Nat.le_antisymm hkl hlk
      obtain rfl : v = w := by simpa [Memory.lookup_cons] using h k hk
      refine congrArg _ (ih hmwf hnwf fun j hj => ?_)
      by_cases hjk : k = j
      · subst hjk
        exact (Memory.lookup_of_lt hmrise).trans (Memory.lookup_of_lt hnrise).symm
      · simpa [Memory.lookup_cons, hjk] using h j hj

/-- The same by CPU addresses (R50). -/
theorem Memory.eq_of_read_eq {m n : Memory} (hm : m.wf = true) (hn : n.wf = true)
    (h : ∀ a : Addr, m.read a = n.read a) : m = n := by
  refine Memory.eq_of_lookup_eq hm hn fun j hj => ?_
  have hread := h (BitVec.ofNat 16 j)
  unfold Memory.read at hread
  rwa [BitVec.toNat_ofNat, Nat.mod_eq_of_lt hj] at hread

/-- Writing back what a canonical memory held undoes a write, as a list. -/
theorem Memory.write_write_read {m : Memory} (h : m.wf = true) (a : Addr) (v : Byte) :
    (m.write a v).write a (m.read a) = m := by
  refine Memory.eq_of_read_eq (Memory.wf_write _ _ _ (Memory.wf_write _ _ _ h)) h fun b => ?_
  by_cases hb : b = a
  · subst hb
    exact Memory.read_write_same _ _ _
  · rw [Memory.read_write_other _ _ hb, Memory.read_write_other _ _ hb]

end Sys2Proof.Machine

namespace Sys2Proof.Proofs

open Sys2Proof.Machine

/-- Settles O28: two canonical memories are compared cell by cell from their least address on. -/
theorem canonicalMemoryIsUnique : Obligations.CanonicalMemoryIsUnique :=
  fun _ _ hm hn h => Memory.eq_of_read_eq hm hn h

/-- Settles O31: DEC writes back the byte that INC read, since no cell but 0x2002 reads as anything else. -/
theorem decrementUndoesIncrement : Obligations.DecrementUndoesIncrement := by
  intro s t u addr hwf haddr ht hu
  obtain rfl : (s.retire 3).modify (fun v => v + 1) addr = t := Host.Outcome.next.inj ht
  obtain rfl := Host.Outcome.next.inj hu
  have hread : ((s.retire 3).modify (fun v => v + 1) addr).peek addr = s.mem.read addr + 1 := by
    rw [State.peek_plain _ haddr, State.modify_mem, State.peek_retire, State.peek_plain _ haddr]
    exact Memory.read_write_same _ _ _
  rw [State.modify_mem, State.peek_retire, hread, BitVec.add_sub_cancel]
  simpa using Memory.write_write_read hwf addr _

/-- Settles O24: the read of `PPUSTATUS_ADDR` by the accessor's two status laws, any other by its two plain ones. -/
theorem readAccessorClearsVblOnce : Obligations.ReadAccessorClearsVblOnce := by
  intro s
  refine ⟨State.peek_status s, ⟨clearVbl s.ppuStatus, State.touch_status s, clearVbl_vbl _, ?low⟩, ?plain⟩
  case low => exact fun k hk => clearVbl_getLsbD_low _ hk
  case plain =>
    intro a ha
    rw [State.memRead_spec, State.peek_plain s ha, State.touch_plain s ha]

/-- Settles O25: a plain read gives the same state back; a status read leaves VBL clear for the next one. -/
theorem statusReadIsNotIdempotent : Obligations.StatusReadIsNotIdempotent := by
  refine ⟨fun s a ha => ?plain, fun s => ⟨?second, ?first⟩, fun s a v => rfl⟩
  case plain =>
    have hs : (s.memRead a).2 = s := State.touch_plain s ha
    exact ⟨hs, by rw [hs]⟩
  case second =>
    have hv : ((s.touch Config.ppuStatusAddr).memRead Config.ppuStatusAddr).1 = clearVbl s.ppuStatus := by
      rw [State.memRead_spec, State.peek_status, State.touch_status]
    exact (congrArg (fun v : Byte => v.getLsbD 7) hv).trans (clearVbl_vbl _)
  case first => exact id

/-- Settles O26: what a write does to every cell, and to every later read. -/
theorem writesStoreLiterally : Obligations.WritesStoreLiterally := by
  intro s a v
  refine ⟨fun b => Memory.read_write _ _ _ _, rfl, rfl, rfl, State.peek_status _, fun b hb => ?_⟩
  have hb : b ≠ Config.ppuStatusAddr := hb
  rw [State.memRead_spec, State.peek_memWrite]
  simp [hb, State.memRead_spec]

/-- Settles O27: the bytes joined by value; the first read leaves what the second returns. -/
theorem sixteenBitReadIsLittleEndian : Obligations.SixteenBitReadIsLittleEndian := by
  intro s a
  have hne : a + 1 ≠ a := by intro h; bv_omega
  refine ⟨?_, rfl, by decide⟩
  calc (s.memRead16 a).1.toNat
      = 256 * ((s.touch a).peek (a + 1)).toNat + (s.peek a).toNat := joinBytes_toNat _ _
    _ = 256 * (s.peek (a + 1)).toNat + (s.peek a).toNat := by rw [State.peek_touch_other s hne]

end Sys2Proof.Proofs
end

section
/-! PROOFS. What an instruction leaves for the next fetch to read. -/

namespace Sys2Proof.Machine

open Sys2Proof.Claims

/-- The whole effect of an instruction on memory (R111): one write of the stored byte at the store address, or nothing. -/
theorem exec_mem (i : Instr) (s : State) : ∃ t, exec i s = .next t ∧
    t.mem = match storeAddress i s with
      | some ea => s.mem.write ea (storedByte i s ea)
      | none => s.mem := by
  cases hs : storeAddress i s with
  | none => cases i <;> cases hs <;> exact ⟨_, rfl, by simp⟩
  | some ea => cases i <;> cases hs <;> exact ⟨_, rfl, by simp [storedByte, Instr.mnemonic, Instr.form]⟩

/-- A CPU read after an instruction: PPUSTATUS at its address, the stored byte at the store address, the old cell
elsewhere (R53, R66). -/
theorem exec_peek {i : Instr} {s t : State} (ht : exec i s = .next t) (c : Addr) :
    t.peek c = if c = 0x2002 then t.ppuStatus else
      if storeAddress i s = some c then storedByte i s c else s.mem.read c := by
  obtain ⟨u, hu, hmem⟩ := exec_mem i s
  obtain rfl : u = t := Host.Outcome.next.inj (hu.symm.trans ht)
  refine if_congr Iff.rfl rfl ?_
  rw [hmem]
  cases storeAddress i s with
  | none => rfl
  | some ea =>
    by_cases hc : c = ea
    · subst hc
      simp
    · simp [Memory.read_write_other _ _ hc, Ne.symm hc]

end Sys2Proof.Machine

namespace Sys2Proof.Proofs

open Sys2Proof.Machine

/-- Settles O30: the bytes the next fetch reads are what a CPU read returns after the instruction. -/
theorem storedOpcodeIsFetchedNext : Obligations.StoredOpcodeIsFetchedNext := by
  refine ⟨fun i s t ht => ?any, fun s t hpc ht => ?overNext⟩
  case any =>
    simp only [← exec_peek ht]
    exact ⟨trivial, fun j rest hj => congrArg Prod.fst (State.fetch_decoded t j rest hj), State.fetch_unsupported t⟩
  case overNext =>
    obtain rfl : (s.retire 3).memWrite (s.pc + 3) s.a = t := Host.Outcome.next.inj ht
    set t := (s.retire 3).memWrite (s.pc + 3) s.a
    have htpc : t.pc = s.pc + 3 := rfl
    have hpc : s.pc + 3 ≠ Config.ppuStatusAddr := hpc
    have hop : t.peek t.pc = s.a := by
      rw [htpc, State.peek_memWrite, if_pos ⟨rfl, hpc⟩]
    refine ⟨htpc, hop, fun j rest hj => ?_, fun hd => ?_⟩
    · rw [← hop] at hj
      exact congrArg Prod.fst (State.fetch_decoded t j rest hj)
    · rw [← hop] at hd ⊢
      rw [State.fetch_unsupported t hd, htpc, State.touch_plain t hpc]

end Sys2Proof.Proofs
end

section
/-! PROOFS. A step that reads no status does not see PPUSTATUS, and so commutes with a tick. -/

namespace Sys2Proof.Machine

/-! ### Another PPUSTATUS -/

/-- The state with another PPUSTATUS. -/
def State.withStatus (s : State) (v : Byte) : State := { s with ppuStatus := v }

@[simp] theorem State.withStatus_x (s : State) (v : Byte) : (s.withStatus v).x = s.x := rfl
@[simp] theorem State.withStatus_y (s : State) (v : Byte) : (s.withStatus v).y = s.y := rfl
@[simp] theorem State.withStatus_pc (s : State) (v : Byte) : (s.withStatus v).pc = s.pc := rfl

/-- A CPU read of any other address does not see PPUSTATUS. -/
theorem State.peek_withStatus (s : State) (v : Byte) {a : Addr} (h : a ≠ Config.ppuStatusAddr) :
    (s.withStatus v).peek a = s.peek a := by
  rw [State.peek_plain _ h, State.peek_plain _ h]
  rfl

/-- An instruction that reads no data from `PPUSTATUS_ADDR` neither sees nor changes PPUSTATUS. -/
theorem exec_withStatus {i : Instr} {s : State} (v : Byte) (h : loadAddress i s ≠ some Config.ppuStatusAddr) :
    exec i (s.withStatus v) = mapNext (fun t => t.withStatus v) (exec i s) := by
  cases hl : loadAddress i s with
  | none =>
    cases i <;> cases hl <;> refine congrArg Host.Outcome.next ?_ <;>
      simp -failIfUnchanged only [State.branchIf_eq] <;> rfl
  | some ea =>
    have hea : ea ≠ Config.ppuStatusAddr := fun e => h (e ▸ hl)
    cases i <;> cases hl <;> refine congrArg Host.Outcome.next ?_ <;>
      simp only [State.withStatus_x, State.withStatus_y, State.retire_loadA, State.retire_loadX, State.retire_loadY,
        State.retire_modify, State.touch_plain _ hea, State.peek_withStatus s v hea] <;> rfl

/-! ### The bytes a CPU step reads -/

theorem inInstruction_eq_false {pc a : Addr} {len : Nat} :
    inInstruction pc len a = false ↔ ∀ k < len, pc + BitVec.ofNat 16 k ≠ a := by
  simp [inInstruction]

/-- A row of the table builds instructions of its own mode's length. -/
theorem length_of_decodeOpcode {op : Byte} {row : Row} (h : decodeOpcode op = some row) (b1 b2 : Byte) :
    (row.build b1 b2).length = row.mode.length := by
  obtain ⟨-, hform, -⟩ := opcodeTable_sound row (decodeOpcode_some h).1 b1 b2
  rw [Instr.length, Instr.mode, hform]

/-- An admitted opcode at PC makes the fetch find an instruction of its mode's length. -/
theorem State.fetch_length {s : State} {row : Row} (h : decodeOpcode (s.peek s.pc) = some row) :
    ∃ i, s.fetch.1 = .instr i ∧ i.length = row.mode.length := by
  rw [State.fetch_row s row h]
  split <;> exact ⟨_, rfl, length_of_decodeOpcode h _ _⟩

theorem State.cpuReads_instr {s : State} {i : Instr} (h : s.fetch.1 = .instr i) (a : Addr) :
    s.cpuReads a = false ↔ inInstruction s.pc i.length a = false ∧ loadAddress i s ≠ some a := by
  simp [State.cpuReads, h]

theorem State.cpuReads_unsupported {s : State} {op : Byte} (h : s.fetch.1 = .unsupported op) (a : Addr) :
    s.cpuReads a = false ↔ s.pc ≠ a := by
  simp [State.cpuReads, h]

section
variable {s : State} (h : s.cpuReads Config.ppuStatusAddr = false)
include h

/-- The fetch of a step that reads no status finds the same under any PPUSTATUS, and has no effect. -/
theorem State.fetch_withStatus (v : Byte) : (s.withStatus v).fetch = (s.fetch.1, s.withStatus v) := by
  cases hd : decodeOpcode (s.peek s.pc) with
  | none =>
    have hf := State.fetch_unsupported s hd
    have h0 : s.pc ≠ Config.ppuStatusAddr := (State.cpuReads_unsupported (congrArg Prod.fst hf) _).mp h
    have hop : (s.withStatus v).peek s.pc = s.peek s.pc := State.peek_withStatus s v h0
    rw [hf, State.fetch_unsupported (s.withStatus v) (by rw [State.withStatus_pc, hop]; exact hd)]
    simp only [State.withStatus_pc, hop, State.touch_plain _ h0]
  | some row =>
    obtain ⟨i, hi, hlen⟩ := State.fetch_length hd
    have hbytes := inInstruction_eq_false.mp ((State.cpuReads_instr hi _).mp h).1
    rw [hlen] at hbytes
    have h0 : s.pc ≠ Config.ppuStatusAddr := by simpa using hbytes 0 (Nat.succ_pos _)
    have hop : (s.withStatus v).peek s.pc = s.peek s.pc := State.peek_withStatus s v h0
    rw [State.fetch_row s row hd, State.fetch_row (s.withStatus v) row (by rw [State.withStatus_pc, hop]; exact hd)]
    simp only [State.withStatus_pc, State.touch_plain _ h0]
    unfold Mode.length at hbytes
    generalize row.mode.operandCount = n at hbytes ⊢
    match n with
    | 0 => rfl
    | 1 =>
      have h1 : s.pc + 1 ≠ Config.ppuStatusAddr := hbytes 1 (by omega)
      simp only [State.touch_plain _ h1, State.peek_withStatus s v h1]
    | n + 2 =>
      have h1 : s.pc + 1 ≠ Config.ppuStatusAddr := hbytes 1 (by omega)
      have h2 : s.pc + 2 ≠ Config.ppuStatusAddr := hbytes 2 (by omega)
      simp only [State.touch_plain _ h1, State.touch_plain _ h2, State.peek_withStatus s v h1,
        State.peek_withStatus s v h2]

/-- A CPU step that reads no status neither sees nor changes PPUSTATUS. -/
theorem cpuStep_withStatus (v : Byte) :
    cpuStep (s.withStatus v) = mapNext (fun t => t.withStatus v) (cpuStep s) := by
  have hself : s.fetch = (s.fetch.1, s) := State.fetch_withStatus h s.ppuStatus
  unfold cpuStep
  rw [State.fetch_withStatus h v, hself]
  cases hf : s.fetch.1 with
  | instr i => exact exec_withStatus v ((State.cpuReads_instr hf _).mp h).2
  | unsupported op => rfl

theorem cpuStep_keeps_status {t : State} (ht : cpuStep s = .next t) : t.ppuStatus = s.ppuStatus := by
  have hself : cpuStep s = mapNext (fun t => t.withStatus s.ppuStatus) (cpuStep s) :=
    cpuStep_withStatus h s.ppuStatus
  rw [ht] at hself
  have e : t = t.withStatus s.ppuStatus := Host.Outcome.next.inj hself
  rw [e]
  rfl

end

/-! ### The tick -/

/-- A tick is the same change of PPUSTATUS and the counters in any two states that agree on those three. -/
theorem State.tick_of_ppu_eq {s t : State} (hc : t.cycle = s.cycle) (hl : t.scanline = s.scanline)
    (hv : t.ppuStatus = s.ppuStatus) :
    t.tick = (t.withStatus s.tick.ppuStatus).withCounters s.tick.cycle s.tick.scanline := by
  unfold State.tick State.nextLine
  rw [hc, hl, hv]
  split_ifs <;> rfl

end Sys2Proof.Machine

namespace Sys2Proof.Proofs

open Sys2Proof.Machine

/-- Settles O40: a tick is a change of PPUSTATUS and of the counters, and such a step commutes with either. -/
theorem tickCommutesWithAStepThatReadsNoStatus : Obligations.TickCommutesWithAStepThatReadsNoStatus := by
  intro s h
  have hs : s.tick = (s.withStatus s.tick.ppuStatus).withCounters s.tick.cycle s.tick.scanline :=
    State.tick_of_ppu_eq rfl rfl rfl
  rw [hs, cpuStep_withCounters, cpuStep_withStatus h]
  cases hstep : cpuStep s with
  | next t =>
    obtain ⟨hc, hl, -⟩ := ppuCountersAreHiddenFromTheCpu s t s.cycle s.scanline hstep
    exact congrArg Host.Outcome.next (State.tick_of_ppu_eq hc hl (cpuStep_keeps_status h hstep)).symm
  | fault r => rfl
  | refused r => rfl

end Sys2Proof.Proofs
end

section
/-! PROOFS. The decoder, the encoder and the assembler: each instruction is built by one row of the opcode table from its
own operand bytes, and the row is found by its opcode and by its form. -/

namespace Sys2Proof

/-! ### The table as a lookup -/

/-- A key that no two elements of a list share finds each element. -/
theorem find?_key_of_mem {α β : Type} [BEq β] [LawfulBEq β] {key : α → β} {l : List α} (hl : (l.map key).Nodup)
    {x : α} (hx : x ∈ l) : l.find? (fun y => key y == key x) = some x := by
  induction l with
  | nil => cases hx
  | cons y l ih =>
    obtain ⟨hy, hl⟩ := List.nodup_cons.mp hl
    rcases List.mem_cons.mp hx with rfl | hx
    · simp
    · have hne : key y ≠ key x := fun h => hy (h ▸ List.mem_map_of_mem hx)
      simpa [List.find?_cons, hne] using ih hl hx

/-- The form a row of the table is for. -/
def Row.form (r : Row) : Mnemonic × Mode := (r.mnemonic, r.mode)

/-- No two rows of the table have the same mnemonic and mode. -/
theorem opcodeTable_forms_distinct : (opcodeTable.map Row.form).Nodup := by decide

/-- The decoder admits exactly the opcodes of the table. -/
theorem decodeOpcode_isSome {op : Byte} : (decodeOpcode op).isSome = true ↔ op ∈ opcodeTable.map Row.opcode := by
  simp [decodeOpcode]

/-- The table has a row only for the modes the rules admit a mnemonic in. -/
theorem mem_admittedModes_of_row : ∀ r ∈ opcodeTable, r.mode ∈ admittedModes r.mnemonic := by decide

/-- Every form that the rules admit has a row in the table (R93). -/
theorem exists_row_of_mem_admittedModes (m : Mnemonic) :
    ∀ md ∈ admittedModes m, (m, md) ∈ opcodeTable.map Row.form := by
  cases m <;> decide

/-! ### The row of an instruction -/

/-- Byte `k` of a list of operand bytes; a byte that is not there counts as 0, as in `decode`. -/
def operand (bytes : List Byte) (k : Nat) : Byte := bytes.getD k 0

/-- Each instruction is what the row of its opcode builds from its operand bytes; the two bytes of an address join to it
again (`joinBytes_high_low`). -/
theorem exists_row (i : Instr) : ∃ row, decodeOpcode i.opcode = some row ∧
    row.build (operand i.operandBytes 0) (operand i.operandBytes 1) = i := by
  cases i <;> refine ⟨_, rfl, ?_⟩ <;> simp [operand, Instr.operandBytes]

/-- The row of an instruction stands in the table under its form, and says how many operand bytes it has. -/
theorem row_of_decodeOpcode {i : Instr} {row : Row} {b1 b2 : Byte} (h : decodeOpcode i.opcode = some row)
    (hb : row.build b1 b2 = i) : row ∈ opcodeTable ∧ row.form = i.form ∧
    i.operandBytes.length = row.mode.operandCount := by
  obtain ⟨hmem, -⟩ := decodeOpcode_some h
  obtain ⟨-, hform, hbytes⟩ := opcodeTable_sound row hmem b1 b2
  rw [hb] at hform hbytes
  refine ⟨hmem, hform.symm, ?_⟩
  rw [hbytes, List.length_take]
  cases row.mode <;> rfl

/-! ### The decoder -/

/-- The decoder on an admitted opcode with its operand bytes. -/
theorem decode_of_row {op : Byte} {row : Row} (h : decodeOpcode op = some row) {bytes : List Byte}
    (hlen : bytes.length = row.mode.operandCount) (rest : List Byte) :
    decode (op :: (bytes ++ rest)) = .ok (row.build (operand bytes 0) (operand bytes 1), rest) := by
  simp only [decode, h, ← hlen]
  match bytes with
  | [] => rfl
  | [b1] => rfl
  | [b1, b2] => rfl
  | b1 :: b2 :: b3 :: bs =>
    cases hm : row.mode <;> simp [hm, Mode.operandCount] at hlen

/-- Everything the decoder can answer: what an admitted opcode's row builds from the operand bytes after it. -/
theorem decode_ok {bytes rest : List Byte} {i : Instr} (h : decode bytes = .ok (i, rest)) :
    ∃ op row b1 b2, decodeOpcode op = some row ∧ i = row.build b1 b2 ∧
      bytes = op :: ([b1, b2].take row.mode.operandCount ++ rest) := by
  cases bytes with
  | nil => cases h
  | cons op tail =>
    simp only [decode] at h
    cases hd : decodeOpcode op with
    | none => rw [hd] at h; cases h
    | some row =>
      rw [hd] at h
      simp only at h
      split at h
      case h_1 hcount => cases h; exact ⟨op, row, 0, 0, hd, rfl, by rw [hcount]; rfl⟩
      case h_2 b1 _ hcount => cases h; exact ⟨op, row, b1, 0, hd, rfl, by rw [hcount]; rfl⟩
      case h_3 b1 b2 _ hcount => cases h; exact ⟨op, row, b1, b2, hd, rfl, by rw [hcount]; rfl⟩
      case h_4 => cases h

/-! ### The assembler's numbers -/

theorem lowByte_toNat (a : Addr) : (lowByte a).toNat = a.toNat % 256 := by
  simp [lowByte, BitVec.extractLsb'_toNat]

theorem highByte_toNat (a : Addr) : (highByte a).toNat = a.toNat / 256 := by
  have := a.isLt
  simp only [highByte, BitVec.extractLsb'_toNat, Nat.shiftRight_eq_div_pow]
  omega

/-- Bytes read as one little-endian number (R55). -/
def littleEndian (bytes : List Byte) : Nat := bytes.foldr (fun b n => b.toNat + 256 * n) 0

theorem Instr.written_eq (i : Instr) : i.written = ⟨i.mnemonic, i.mode, littleEndian i.operandBytes⟩ := rfl

theorem littleEndian_cons (b : Byte) (bytes : List Byte) :
    littleEndian (b :: bytes) = b.toNat + 256 * littleEndian bytes := rfl

theorem littleEndian_lt (bytes : List Byte) : littleEndian bytes < 256 ^ bytes.length := by
  induction bytes with
  | nil => exact Nat.one_pos
  | cons b bytes ih =>
    have hb := b.isLt
    rw [littleEndian_cons, List.length_cons, Nat.pow_succ]
    omega

/-- The two bytes the assembler splits a number into are the operand bytes it was read from. -/
theorem lowByte_littleEndian (bytes : List Byte) :
    lowByte (BitVec.ofNat 16 (littleEndian bytes)) = operand bytes 0 := by
  apply BitVec.eq_of_toNat_eq
  rw [lowByte_toNat, BitVec.toNat_ofNat, Nat.mod_mod_of_dvd _ (by decide)]
  match bytes with
  | [] => rfl
  | b :: bs =>
    rw [littleEndian_cons, Nat.add_mul_mod_self_left, Nat.mod_eq_of_lt b.isLt]
    rfl

theorem highByte_littleEndian (bytes : List Byte) :
    highByte (BitVec.ofNat 16 (littleEndian bytes)) = operand bytes 1 := by
  apply BitVec.eq_of_toNat_eq
  rw [highByte_toNat, BitVec.toNat_ofNat]
  match bytes with
  | [] => rfl
  | [b] =>
    have := b.isLt
    show (b.toNat + 256 * 0) % 2 ^ 16 / 256 = 0
    omega
  | b :: c :: bs =>
    have := b.isLt
    have := c.isLt
    show _ = c.toNat
    rw [littleEndian_cons, littleEndian_cons]
    omega

/-- A mode holds the numbers its operand bytes can (R82). -/
theorem Mode.operandBound_eq (md : Mode) : md.operandBound = 256 ^ md.operandCount := by
  cases md <;> rfl

/-- Splitting a number that fits into operand bytes and reading them back. -/
theorem littleEndian_take {md : Mode} {n : Nat} (h : n < md.operandBound) :
    littleEndian ([lowByte (BitVec.ofNat 16 n), highByte (BitVec.ofNat 16 n)].take md.operandCount) = n := by
  cases md <;>
    simp [Mode.operandBound, Mode.operandCount, littleEndian, lowByte_toNat, highByte_toNat] at h ⊢ <;> omega

/-! ### The assembler -/

theorem Written.wellFormed_iff {w : Written} : w.wellFormed = true ↔
    w.mode ∈ admittedModes w.mnemonic ∧ w.operand < w.mode.operandBound := by
  simp [Written.wellFormed, Written.formAdmitted, Written.operandFits]

/-- The assembler on a form of the table with an operand that fits. -/
theorem Written.toInstr_of_row {w : Written} {row : Row} (hmem : row ∈ opcodeTable)
    (hform : row.form = (w.mnemonic, w.mode)) (hfits : w.operand < w.mode.operandBound) :
    w.toInstr = some (row.build (lowByte (BitVec.ofNat 16 w.operand)) (highByte (BitVec.ofNat 16 w.operand))) := by
  have hfind := find?_key_of_mem opcodeTable_forms_distinct hmem
  obtain ⟨hm, hmd⟩ := Prod.mk.inj hform
  have hwf : w.wellFormed = true := by
    rw [Written.wellFormed_iff, ← hm]
    exact ⟨hmd ▸ mem_admittedModes_of_row row hmem, hfits⟩
  rw [hform] at hfind
  rw [Written.toInstr, if_pos hwf]
  exact congrArg _ hfind

/-- Every instruction's written form stands for it. -/
theorem Instr.toInstr_written (i : Instr) : i.written.toInstr = some i := by
  obtain ⟨row, hop, hbuild⟩ := exists_row i
  obtain ⟨hmem, hform, hlen⟩ := row_of_decodeOpcode hop hbuild
  have hmode : i.mode = row.mode := congrArg Prod.snd hform.symm
  have hfits : littleEndian i.operandBytes < i.mode.operandBound := by
    rw [Mode.operandBound_eq, hmode, ← hlen]
    exact littleEndian_lt i.operandBytes
  rw [Written.toInstr_of_row hmem hform hfits, Instr.written_eq, lowByte_littleEndian, highByte_littleEndian, hbuild]

/-- Every well-formed written instruction assembles to an instruction it is the written form of. -/
theorem Written.exists_toInstr {w : Written} (hmode : w.mode ∈ admittedModes w.mnemonic)
    (hfits : w.operand < w.mode.operandBound) : ∃ i, w.toInstr = some i ∧ i.written = w := by
  obtain ⟨row, hmem, hrow⟩ := List.mem_map.mp (exists_row_of_mem_admittedModes w.mnemonic w.mode hmode)
  refine ⟨_, Written.toInstr_of_row hmem hrow hfits, ?_⟩
  obtain ⟨-, hform, hbytes⟩ := opcodeTable_sound row hmem (lowByte (BitVec.ofNat 16 w.operand))
    (highByte (BitVec.ofNat 16 w.operand))
  obtain ⟨hm, hmd⟩ := Prod.mk.inj hrow
  rw [Instr.written_eq, Instr.mnemonic, Instr.mode, hform, hbytes, hm, hmd, littleEndian_take hfits]

end Sys2Proof

namespace Sys2Proof.Machine

/-- The CPU step on an opcode that is not admitted ends the run after the opcode fetch's own effect (R191). -/
theorem cpuStep_unsupported {s : State} (h : decodeOpcode (s.peek s.pc) = none) :
    cpuStep s = .next ((s.touch s.pc).endRun (.unsupported (s.peek s.pc) s.pc)) := by
  rw [cpuStep, State.fetch_unsupported s h]
  simp only [State.touch_pc]

end Sys2Proof.Machine

namespace Sys2Proof.Proofs

open Sys2Proof.Machine

/-- Settles O1: the row of an instruction's opcode builds it from its operand bytes. -/
theorem decodeOfEncodeIsIdentity : Obligations.DecodeOfEncodeIsIdentity := by
  intro i rest
  obtain ⟨row, hop, hbuild⟩ := exists_row i
  obtain ⟨-, -, hlen⟩ := row_of_decodeOpcode hop hbuild
  exact (decode_of_row hop hlen rest).trans (by rw [hbuild])

/-- Settles O2: the decoder answers what a row builds, and a row agrees with the encoder. -/
theorem decodedBytesAreTheEncoding : Obligations.DecodedBytesAreTheEncoding := by
  intro bytes i rest h
  obtain ⟨op, row, b1, b2, hrow, rfl, rfl⟩ := decode_ok h
  obtain ⟨hmem, rfl⟩ := decodeOpcode_some hrow
  obtain ⟨hop, -, hbytes⟩ := opcodeTable_sound row hmem b1 b2
  rw [encode, hop, hbytes]
  rfl

/-- Settles O3: the decoder run on the twelve words. -/
theorem encodedWordsDecodeAsListed : Obligations.EncodedWordsDecodeAsListed :=
  ⟨rfl, rfl, rfl, rfl, rfl, rfl, rfl, rfl, rfl, rfl, rfl, rfl⟩

/-- Settles O4: the list is the table's opcodes in another order. -/
theorem unsupportedOpcodesAreTheOther202 : Obligations.UnsupportedOpcodesAreTheOther202 := by
  unfold Obligations.UnsupportedOpcodesAreTheOther202
  intro admitted
  have hperm : (opcodeTable.map Row.opcode).Perm admitted := by decide
  have hadmits (op : Byte) : (decodeOpcode op).isSome = true ↔ op ∈ admitted :=
    decodeOpcode_isSome.trans hperm.mem_iff
  refine ⟨hperm.nodup_iff.mp opcodeTable_distinct, hperm.length_eq.symm.trans (by simp [opcodeTable_length]),
    fun op => ⟨hadmits op, fun hop s hs => ?_⟩⟩
  have hnone : decodeOpcode (s.peek s.pc) = none := by
    rw [hs]
    simpa using mt (hadmits op).mp hop
  exact hs ▸ cpuStep_unsupported hnone

/-- Settles O6: an instruction and its written form determine each other through the row of their form. -/
theorem writtenInstructionsAssemble : Obligations.WrittenInstructionsAssemble := by
  refine ⟨Instr.toInstr_written, fun w h => ?_, fun w => Written.exists_toInstr⟩
  have hwf : ¬ w.wellFormed = true := by
    rw [Written.wellFormed_iff]
    rintro ⟨hmode, hfits⟩
    exact h.elim (fun hn => hn hmode) (Nat.not_le.mpr hfits)
  exact if_neg hwf

end Sys2Proof.Proofs
end

section
/-! PROOFS. The addresses the modes form, as numbers, and the assembler's branch displacement. -/

namespace Sys2Proof.Machine

@[simp] theorem zext16_toNat (v : Byte) : (zext16 v).toNat = v.toNat :=
  BitVec.toNat_setWidth_of_le (by decide)

@[simp] theorem sext16_toInt (v : Byte) : (sext16 v).toInt = v.toInt :=
  BitVec.toInt_signExtend_of_le (by decide)

/-- The low byte of an address, read as a signed displacement. -/
theorem lowByte_toInt (a : Addr) : (lowByte a).toInt = a.toInt.bmod 256 := by
  rw [BitVec.toInt_eq_toNat_bmod, lowByte_toNat, BitVec.toInt_eq_toNat_bmod a, Int.bmod_bmod_of_dvd (by decide)]
  exact Int.emod_bmod (a.toNat : Int) 256

/-- A displacement byte sign-extends to `d` exactly when `d` is in the signed byte range and has that byte as its low
byte. -/
theorem sext16_eq_iff {v : Byte} {d : Addr} :
    sext16 v = d ↔ (-128 ≤ d.toInt ∧ d.toInt ≤ 127) ∧ lowByte d = v := by
  rw [← BitVec.toInt_inj, ← BitVec.toInt_inj (x := lowByte d), sext16_toInt, lowByte_toInt]
  have hlo := BitVec.le_toInt v
  have hhi := BitVec.toInt_lt (x := v)
  rw [Int.bmod_def]
  omega

theorem branchTarget_eq_iff {pc label : Addr} {b1 : Byte} :
    branchTarget pc b1 = label ↔ sext16 b1 = label - (pc + 2) := by
  rw [branchTarget, eq_sub_iff_add_eq, add_comm]

theorem assembleBranch_eq_some {pc label : Addr} {b1 : Byte} :
    assembleBranch pc label = some b1 ↔ branchTarget pc b1 = label := by
  rw [branchTarget_eq_iff, sext16_eq_iff]
  simp [assembleBranch, branchReaches]

/-- An address and its signed reading agree modulo 65536. -/
theorem toNat_eq_toInt_emod (a : Addr) : (a.toNat : Int) = a.toInt % 65536 := by
  have := a.isLt
  rw [BitVec.toInt_eq_toNat_cond]
  split <;> omega

/-- The branch target as a number (R91). -/
theorem branchTarget_toNat (pc : Addr) (b1 : Byte) :
    ((branchTarget pc b1).toNat : Int) = (pc.toNat + 2 + b1.toInt) % 65536 := by
  have hsext := toNat_eq_toInt_emod (sext16 b1)
  rw [sext16_toInt] at hsext
  have htwo : (2 : Addr).toNat = 2 := rfl
  rw [branchTarget, BitVec.toNat_add, BitVec.toNat_add, htwo]
  omega

end Sys2Proof.Machine

namespace Sys2Proof.Proofs

open Sys2Proof.Machine

/-- Settles O5: a label is reached by a byte exactly when the byte sign-extends to the distance from `pc + 2`. -/
theorem branchTargetsAndLabelsAgree : Obligations.BranchTargetsAndLabelsAgree :=
  ⟨branchTarget_toNat, fun _ _ _ => assembleBranch_eq_some⟩

/-- Settles O7: the index is added to the base byte before the sum becomes an address. -/
theorem zeroPageIndexedStaysInZeroPage : Obligations.ZeroPageIndexedStaysInZeroPage := by
  intro b1 index
  have hsum : (zeroPageIndexed b1 index).toNat = (b1.toNat + index.toNat) % 256 := by
    rw [zeroPageIndexed, zext16_toNat, BitVec.toNat_add]
  exact ⟨hsum, hsum ▸ Nat.mod_lt _ (by decide)⟩

/-- Settles O8: the index becomes an address before it is added. -/
theorem absoluteIndexedWrapsAt65536 : Obligations.AbsoluteIndexedWrapsAt65536 := by
  intro base index
  rw [absoluteIndexed, BitVec.toNat_add, zext16_toNat]

end Sys2Proof.Proofs
end

section
/-! PROOFS. The CPU's action on bytes that decode to an instruction. -/

namespace Sys2Proof.Proofs

open Sys2Proof.Machine

/-- Settles O32: the action is the CPU's turn within the budget, and the fetch finds the decoded instruction. -/
theorem stepRunsTheDecodedInstruction : Obligations.StepRunsTheDecodedInstruction := by
  intro sched s i rest hr hn hb hd fetched
  have hcpu : cpuStep s = exec i fetched := by
    rw [cpuStep, State.fetch_decoded s i rest hd]
  have hstep (sched : Schedule) : stepWith sched s = mapNext (State.handOver sched) (exec i fetched) := by
    rw [stepWith_cpu sched s hr hn, cpuTurn_step sched s hb, hcpu]
  exact ⟨hstep sched, hstep Config.ticksAfterStep⟩

end Sys2Proof.Proofs
end

section
/-! PROOFS. The frame of one instruction: the byte it leaves at each address, and what completing it changes of the run. -/

namespace Sys2Proof.Machine

open Sys2Proof.Claims

/-- The cells after an instruction (R111): the stored byte at the store address, the old byte elsewhere. -/
theorem exec_mem_read {i : Instr} {s t : State} (ht : exec i s = .next t) (a : Addr) :
    t.mem.read a = if storeAddress i s = some a then storedByte i s a else s.mem.read a := by
  obtain ⟨u, hu, hmem⟩ := exec_mem i s
  obtain rfl : u = t := Host.Outcome.next.inj (hu.symm.trans ht)
  rw [hmem]
  cases storeAddress i s with
  | none => rfl
  | some ea =>
    rcases eq_or_ne ea a with rfl | hne
    · simp
    · simp [Memory.read_write, hne, hne.symm]

/-- `t` is a state in which an instruction that began in `s` has completed with PC at `pc`: the run goes on as before, with
one step more of its budget used (R110). -/
structure CompletedAt (pc : Addr) (s t : State) : Prop where
  runState : t.runState = s.runState
  steps : t.steps = s.steps + 1
  stepBudget : t.stepBudget = s.stepBudget
  ticksDue : t.ticksDue = s.ticksDue
  pc : t.pc = pc

theorem State.branchIf_completed (s : State) (taken : Bool) (b1 : Byte) :
    CompletedAt (if taken then branchTarget s.pc b1 else s.pc + 2) s (s.branchIf taken b1) where
  runState := s.branchIf_runState taken b1
  steps := s.branchIf_steps taken b1
  stepBudget := s.branchIf_stepBudget taken b1
  ticksDue := s.branchIf_ticksDue taken b1
  pc := s.branchIf_pc taken b1

/-- The instructions of relative mode are the branches: each is one `branchIf` on its operand byte (R170). -/
theorem exec_relative {i : Instr} (hm : i.mode = .relative) (s : State) :
    ∃ b1 taken, i.operandBytes = [b1] ∧ exec i s = .next (s.branchIf taken b1) := by
  cases i <;> cases hm <;> exact ⟨_, _, rfl, rfl⟩

/-- Every other instruction but HLT completes past its bytes (R110). -/
theorem exec_sequential {i : Instr} (hh : i ≠ .hlt) (hm : i.mode ≠ .relative) (s : State) :
    ∃ t, exec i s = .next t ∧ CompletedAt (s.pc + BitVec.ofNat 16 i.length) s t := by
  cases i
  case hlt => exact absurd rfl hh
  case bpl | bmi | bvc | bvs | bcc | bcs | bne | beq => exact absurd rfl hm
  all_goals exact ⟨_, rfl, by simp, by simp, by simp, by simp,
    by simp [Instr.length, Instr.mode, Instr.form, Mode.length, Mode.operandCount]⟩

end Sys2Proof.Machine

namespace Sys2Proof.Proofs

open Sys2Proof.Machine

/-- Settles O29: both clauses read the cells after the instruction. -/
theorem memoryChangesOnlyAtTheStoreAddress : Obligations.MemoryChangesOnlyAtTheStoreAddress :=
  fun _ _ _ ht => ⟨fun a hne => (exec_mem_read ht a).trans (if_neg hne),
    fun a heq => (exec_mem_read ht a).trans (if_pos heq)⟩

/-- Settles O36: HLT ends the run in place, a branch completes at its target or past its two bytes, and any other
instruction completes past its bytes. -/
theorem onlyHltEndsTheRun : Obligations.OnlyHltEndsTheRun := by
  intro i s
  by_cases hh : i = .hlt
  · subst hh
    exact ⟨s.endRun (.halted s.pc), rfl, rfl, rfl, rfl⟩
  simp only [if_neg hh]
  by_cases hm : i.mode = .relative
  · obtain ⟨b1, taken, hbytes, hexec⟩ := exec_relative hm s
    obtain ⟨hrun, hsteps, hbudget, hticks, hpc⟩ := s.branchIf_completed taken b1
    refine ⟨_, hexec, hrun, hsteps, hbudget, hticks, ?_⟩
    cases taken with
    | true => exact .inr ⟨hm, b1, hbytes, hpc⟩
    | false => exact .inl (by rw [hpc, Instr.length, hm]; rfl)
  · obtain ⟨t, hexec, hrun, hsteps, hbudget, hticks, hpc⟩ := exec_sequential hh hm s
    exact ⟨t, hexec, hrun, hsteps, hbudget, hticks, .inl hpc⟩

end Sys2Proof.Proofs
end

section
/-! PROOFS. The loads in every addressing form: the bytes of a three-byte form, and the three load laws. -/

namespace Sys2Proof

/-- The encoding of a three-byte form, its operand given as the two bytes it is joined from: low byte first (R88). -/
theorem encode_joinBytes {i : Instr} {op b1 b2 : Byte}
    (h : encode i = [op, lowByte (joinBytes b2 b1), highByte (joinBytes b2 b1)]) : encode i = [op, b1, b2] := by
  rw [h, lowByte_joinBytes, highByte_joinBytes]

end Sys2Proof

namespace Sys2Proof.Machine

open Sys2Proof.Claims

section
variable {i : Instr} {len : Addr} {ea : State → Addr}

/-- The law of LDA (R120), from the effective address its form computes. -/
theorem loadsA_of_exec (h : ∀ s, exec i s = .next ((s.retire len).loadA (ea s))) : LoadsA i len ea := fun s => by
  rw [h, State.retire_loadA]

/-- The law of LDX (R121), from the effective address its form computes. -/
theorem loadsX_of_exec (h : ∀ s, exec i s = .next ((s.retire len).loadX (ea s))) : LoadsX i len ea := fun s => by
  rw [h, State.retire_loadX]

/-- The law of LDY (R122), from the effective address its form computes. -/
theorem loadsY_of_exec (h : ∀ s, exec i s = .next ((s.retire len).loadY (ea s))) : LoadsY i len ea := fun s => by
  rw [h, State.retire_loadY]

end

end Sys2Proof.Machine

namespace Sys2Proof.Proofs

open Sys2Proof.Machine

/-- Settles O10: the immediate form puts its operand byte into A, and every other form is one load of A. -/
theorem ldaLoadsAInEveryForm : Obligations.LdaLoadsAInEveryForm := by
  refine ⟨?imm, ?zp, ?zpX, ?abs, ?absX, ?absY⟩
  case imm => exact fun b1 => ⟨rfl, fun s => rfl⟩
  case zp | zpX => exact fun b1 => ⟨rfl, loadsA_of_exec fun s => rfl⟩
  case abs | absX | absY => exact fun b1 b2 => ⟨encode_joinBytes rfl, loadsA_of_exec fun s => rfl⟩

/-- Settles O11: the immediate form puts its operand byte into X, and every other form is one load of X. -/
theorem ldxLoadsXInEveryForm : Obligations.LdxLoadsXInEveryForm := by
  refine ⟨?imm, ?zp, ?zpY, ?abs, ?absY⟩
  case imm => exact fun b1 => ⟨rfl, fun s => rfl⟩
  case zp | zpY => exact fun b1 => ⟨rfl, loadsX_of_exec fun s => rfl⟩
  case abs | absY => exact fun b1 b2 => ⟨encode_joinBytes rfl, loadsX_of_exec fun s => rfl⟩

/-- Settles O12: the immediate form puts its operand byte into Y, and every other form is one load of Y. -/
theorem ldyLoadsYInEveryForm : Obligations.LdyLoadsYInEveryForm := by
  refine ⟨?imm, ?zp, ?zpX, ?abs, ?absX⟩
  case imm => exact fun b1 => ⟨rfl, fun s => rfl⟩
  case zp | zpX => exact fun b1 => ⟨rfl, loadsY_of_exec fun s => rfl⟩
  case abs | absX => exact fun b1 b2 => ⟨encode_joinBytes rfl, loadsY_of_exec fun s => rfl⟩

end Sys2Proof.Proofs
end

section
/-! PROOFS. The stores in every addressing form: one law, from the effective address of the form and the register stored. -/

namespace Sys2Proof.Machine

open Sys2Proof.Claims

/-- A store after `retire`, as the meanings use it (R53, R110); no address is a special case, 0x2002 included. -/
theorem State.retire_memWrite (s : State) (len ea : Addr) (v : Byte) :
    (s.retire len).memWrite ea v = { s with
      mem := s.mem.write ea v, pc := s.pc + len, steps := s.steps + 1 } := rfl

/-- The law of STA, STX and STY (R130 to R132), from the effective address the form computes and the register. -/
theorem stores_of_exec {i : Instr} {len : Addr} {ea : State → Addr} {reg : State → Byte}
    (h : ∀ s, exec i s = .next ((s.retire len).memWrite (ea s) (reg s))) : Stores i len ea reg := fun s => by
  rw [h, State.retire_memWrite]

end Sys2Proof.Machine

namespace Sys2Proof.Proofs

open Sys2Proof.Machine

/-- Settles O13: every form is one write of A to the cell at its effective address. -/
theorem staStoresAInEveryForm : Obligations.StaStoresAInEveryForm := by
  refine ⟨?zp, ?zpX, ?abs, ?absX, ?absY⟩
  case zp | zpX => exact fun b1 => ⟨rfl, stores_of_exec fun s => rfl⟩
  case abs | absX | absY => exact fun b1 b2 => ⟨encode_joinBytes rfl, stores_of_exec fun s => rfl⟩

/-- Settles O14: every form is one write of X to the cell at its effective address. -/
theorem stxStoresXInEveryForm : Obligations.StxStoresXInEveryForm := by
  refine ⟨?zp, ?zpY, ?abs⟩
  case zp | zpY => exact fun b1 => ⟨rfl, stores_of_exec fun s => rfl⟩
  case abs => exact fun b1 b2 => ⟨encode_joinBytes rfl, stores_of_exec fun s => rfl⟩

/-- Settles O15: every form is one write of Y to the cell at its effective address. -/
theorem styStoresYInEveryForm : Obligations.StyStoresYInEveryForm := by
  refine ⟨?zp, ?zpX, ?abs⟩
  case zp | zpX => exact fun b1 => ⟨rfl, stores_of_exec fun s => rfl⟩
  case abs => exact fun b1 b2 => ⟨encode_joinBytes rfl, stores_of_exec fun s => rfl⟩

end Sys2Proof.Proofs
end

section
/-! PROOFS. The transfers: each is one register write with N and Z from the value, past one byte. -/

namespace Sys2Proof.Machine

/-- A value put into A with its flags after `retire`, as the meanings use it (R29, R110). -/
theorem State.retire_putA (s : State) (len : Addr) (v : Byte) :
    (s.retire len).putA v = { s with a := v, p := updateNZ v s.p, pc := s.pc + len, steps := s.steps + 1 } := rfl

/-- A value put into X with its flags after `retire` (R29, R110). -/
theorem State.retire_putX (s : State) (len : Addr) (v : Byte) :
    (s.retire len).putX v = { s with x := v, p := updateNZ v s.p, pc := s.pc + len, steps := s.steps + 1 } := rfl

/-- A value put into Y with its flags after `retire` (R29, R110). -/
theorem State.retire_putY (s : State) (len : Addr) (v : Byte) :
    (s.retire len).putY v = { s with y := v, p := updateNZ v s.p, pc := s.pc + len, steps := s.steps + 1 } := rfl

/-- SP written with N and Z from the same value, after `retire` (R145, D19). -/
theorem State.retire_setSp_setNZ (s : State) (len : Addr) (v : Byte) :
    ((s.retire len).setSp v).setNZ v =
      { s with sp := v, p := updateNZ v s.p, pc := s.pc + len, steps := s.steps + 1 } := rfl

/-! ### What each transfer computes -/

theorem exec_tax (s : State) : exec .tax s = .next ((s.retire 1).putX s.a) := rfl

theorem exec_tay (s : State) : exec .tay s = .next ((s.retire 1).putY s.a) := rfl

theorem exec_txa (s : State) : exec .txa s = .next ((s.retire 1).putA s.x) := rfl

theorem exec_tya (s : State) : exec .tya s = .next ((s.retire 1).putA s.y) := rfl

theorem exec_tsx (s : State) : exec .tsx s = .next ((s.retire 1).putX s.sp) := rfl

/-- TXS takes the branch that writes N and Z, because `TXS_UPDATES_FLAGS` holds (D19). -/
theorem exec_txs (s : State) : exec .txs s = .next (((s.retire 1).setSp s.x).setNZ s.x) :=
  congrArg Host.Outcome.next (if_pos txsUpdatesFlags_eq)

/-- TSX right after reset (R144, D4): X is `SP_RESET`, which has bit 7 set, so N = 1 and Z = 0. -/
theorem exec_tsx_reset :
    ∃ t, exec .tsx State.reset = .next t ∧ t.x = 0xFD ∧ flagOf t.p .negative = true ∧ flagOf t.p .zero = false := by
  refine ⟨_, exec_tsx State.reset, rfl, ?negative, ?zero⟩
  case negative | zero => exact (flagOf_updateNZ Config.spReset Config.pReset _).trans rfl

end Sys2Proof.Machine

namespace Sys2Proof.Proofs

open Sys2Proof.Machine

/-- Settles O16: each transfer puts its source register into its destination, the flags with it. -/
theorem transfersCopyAndUpdateNZ : Obligations.TransfersCopyAndUpdateNZ := by
  refine ⟨rfl, rfl, rfl, rfl, rfl, exec_tsx_reset, fun s => ⟨?tax, ?tay, ?txa, ?tya, ?tsx⟩⟩
  case tax => rw [exec_tax, State.retire_putX]
  case tay => rw [exec_tay, State.retire_putY]
  case txa => rw [exec_txa, State.retire_putA]
  case tya => rw [exec_tya, State.retire_putA]
  case tsx => rw [exec_tsx, State.retire_putX]

/-- Settles O17: TXS writes SP and, by D19, the flags of the same value. -/
theorem txsCopiesXAndUpdatesNZ : Obligations.TxsCopiesXAndUpdatesNZ :=
  ⟨rfl, fun s => by rw [exec_txs, State.retire_setSp_setNZ]⟩

end Sys2Proof.Proofs
end

section
/-! PROOFS. The increments and the index counts: one law for a memory byte modified in place, and the four register counts. -/

namespace Sys2Proof.Machine

open Sys2Proof.Claims

/-- The law of INC and DEC (R150, R160), from the effective address the form computes. -/
theorem modifies_of_exec {i : Instr} {len : Addr} {f : Byte → Byte} {ea : State → Addr}
    (h : ∀ s, exec i s = .next ((s.retire len).modify f (ea s))) : Modifies i len f ea := fun s => by
  rw [h, State.retire_modify]

/-! ### What each count computes -/

theorem exec_inx (s : State) : exec .inx s = .next ((s.retire 1).putX (s.x + 1)) := rfl

theorem exec_iny (s : State) : exec .iny s = .next ((s.retire 1).putY (s.y + 1)) := rfl

theorem exec_dex (s : State) : exec .dex s = .next ((s.retire 1).putX (s.x - 1)) := rfl

theorem exec_dey (s : State) : exec .dey s = .next ((s.retire 1).putY (s.y - 1)) := rfl

end Sys2Proof.Machine

namespace Sys2Proof.Proofs

open Sys2Proof.Machine

/-- Settles O18: every form is one read, increment and write of the cell at its effective address. -/
theorem incAddsOneInEveryForm : Obligations.IncAddsOneInEveryForm := by
  refine ⟨?zp, ?zpX, ?abs, ?absX⟩
  case zp | zpX => exact fun b1 => ⟨rfl, modifies_of_exec fun s => rfl⟩
  case abs | absX => exact fun b1 b2 => ⟨encode_joinBytes rfl, modifies_of_exec fun s => rfl⟩

/-- Settles O20: each count puts its index register, one more or one less, back with the flags of the result. -/
theorem indexRegistersCountModulo256 : Obligations.IndexRegistersCountModulo256 := by
  refine ⟨rfl, rfl, rfl, rfl, fun s => ⟨?inx, ?iny, ?dex, ?dey⟩⟩
  case inx => rw [exec_inx, State.retire_putX]
  case iny => rw [exec_iny, State.retire_putY]
  case dex => rw [exec_dex, State.retire_putX]
  case dey => rw [exec_dey, State.retire_putY]

end Sys2Proof.Proofs
end

section
/-! PROOFS. DEC in every addressing form, by the law of INC and DEC. -/

namespace Sys2Proof.Proofs

open Sys2Proof.Machine

/-- Settles O19: every form is one read, decrement and write of the cell at its effective address. -/
theorem decSubtractsOneInEveryForm : Obligations.DecSubtractsOneInEveryForm := by
  refine ⟨?zp, ?zpX, ?abs, ?absX⟩
  case zp | zpX => exact fun b1 => ⟨rfl, modifies_of_exec fun s => rfl⟩
  case abs | absX => exact fun b1 b2 => ⟨encode_joinBytes rfl, modifies_of_exec fun s => rfl⟩

end Sys2Proof.Proofs
end

section
/-! PROOFS. The branches on N and Z: the branch law for each, and the flag that a load or a count leaves for the branch. -/

namespace Sys2Proof.Machine

open Sys2Proof.Claims

/-- BPL is taken when N is 0 (R171). -/
theorem bpl_branches : Branches .bpl 0x10 .negative false :=
  branches_of_exec (fun _ => rfl) (fun _ s => ⟨!flagOf s.p .negative, rfl, by simp⟩)

/-- BNE is taken when Z is 0 (R177). -/
theorem bne_branches : Branches .bne 0xD0 .zero false :=
  branches_of_exec (fun _ => rfl) (fun _ s => ⟨!flagOf s.p .zero, rfl, by simp⟩)

theorem exec_ldaAbs (addr : Addr) (s : State) : exec (.ldaAbs addr) s = .next ((s.retire 3).loadA addr) := rfl

/-- `LDA $2002` leaves in N the VBL bit as it was before the read cleared it (R52, R120). -/
theorem exec_ldaAbs_status_negative {s t : State} (h : exec (.ldaAbs Config.ppuStatusAddr) s = .next t) :
    flagOf t.p .negative = s.vbl := by
  obtain rfl : (s.retire 3).loadA Config.ppuStatusAddr = t := Host.Outcome.next.inj ((exec_ldaAbs _ s).symm.trans h)
  rw [State.loadA_p, flagOf_updateNZ, if_pos rfl, State.peek_retire, State.peek_status, State.vbl]

/-- DEX leaves in Z whether X came to 0 (R29). -/
theorem exec_dex_zero {s t : State} (h : exec .dex s = .next t) : flagOf t.p .zero = (s.x - 1 == 0) := by
  obtain rfl : (s.retire 1).putX (s.x - 1) = t := Host.Outcome.next.inj ((exec_dex s).symm.trans h)
  rw [State.putX_p, flagOf_updateNZ, if_neg (by decide), if_pos rfl]

end Sys2Proof.Machine

namespace Sys2Proof.Proofs

open Sys2Proof.Machine

/-- Settles O21: each branch by the branch law, and the corner cases from the flag the instruction before it left. -/
theorem branchesOnNegativeAndZero : Obligations.BranchesOnNegativeAndZero := by
  refine ⟨bpl_branches, ?bmi, bne_branches, ?beq, fun pc => ?zeroDisplacement, fun s t b1 h => ?bplAfterLda,
    fun s t b1 hx h => ?bneAfterDex, by decide⟩
  case bmi => exact branches_of_exec (fun _ => rfl) (fun _ s => ⟨flagOf s.p .negative, rfl, Iff.rfl⟩)
  case beq => exact branches_of_exec (fun _ => rfl) (fun _ s => ⟨flagOf s.p .zero, rfl, Iff.rfl⟩)
  case zeroDisplacement => exact BitVec.add_zero (pc + 2)
  case bplAfterLda =>
    rw [(bpl_branches b1).2 t, exec_ldaAbs_status_negative h]
    cases s.vbl <;> rfl
  case bneAfterDex =>
    have hz : flagOf t.p .zero = true := by rw [exec_dex_zero h, hx]; rfl
    rw [(bne_branches b1).2 t, hz]
    rfl

end Sys2Proof.Proofs
end

section
/-! PROOFS. The two ends of a run that come from its own code: HLT and an opcode that is not admitted. -/

namespace Sys2Proof.Machine

theorem exec_hlt (s : State) : exec .hlt s = .next (s.endRun (.halted s.pc)) := rfl

/-- A fetch of HLT's opcode finds HLT and reads no operand (R83, R190). -/
theorem State.fetch_hlt {s : State} (h : s.peek s.pc = Config.haltOpcode) : s.fetch = (.instr .hlt, s.touch s.pc) := by
  have hrow : decodeOpcode (s.peek s.pc) = some ⟨Config.haltOpcode, .hlt, .implied, fun _ _ => .hlt⟩ := by
    rw [h]
    rfl
  exact State.fetch_row s _ hrow

/-- The CPU step on HLT ends the run after the opcode fetch's own effect (R190). -/
theorem cpuStep_hlt {s : State} (h : s.peek s.pc = Config.haltOpcode) :
    cpuStep s = .next ((s.touch s.pc).endRun (.halted s.pc)) := by
  rw [cpuStep, State.fetch_hlt h]
  exact (exec_hlt (s.touch s.pc)).trans (by rw [State.touch_pc])

/-- A run that has ended at an opcode that is not admitted takes no action (R205). -/
theorem stepWith_unsupported (sched : Schedule) {s : State} {op : Byte} {addr : Addr}
    (h : s.runState = .unsupported op addr) : stepWith sched s = .fault (.unsupportedOpcode op addr) := by
  simp only [stepWith, h]

end Sys2Proof.Machine

namespace Sys2Proof.Proofs

open Sys2Proof.Machine

/-- Settles O23: HLT's meaning is the end of the run, and the CPU step on its opcode is that meaning after the fetch. -/
theorem hltEndsTheRunAtItsOpcode : Obligations.HltEndsTheRunAtItsOpcode :=
  ⟨rfl, exec_hlt, fun _ => cpuStep_hlt⟩

/-- Settles O33: the CPU's turn ends the run, so no ticks are handed over and the next action is a fault. -/
theorem unsupportedOpcodeEndsTheRun : Obligations.UnsupportedOpcodeEndsTheRun := by
  intro sched s hr hn hb hop
  refine ⟨(s.touch s.pc).endRun (.unsupported (s.peek s.pc) s.pc), ?ends, rfl, stepWith_unsupported sched rfl⟩
  case ends =>
    rw [stepWith_cpu sched s hr hn, cpuTurn_step sched s hb, cpuStep_unsupported hop]
    exact congrArg Host.Outcome.next (State.handOver_ended _ sched nofun)

end Sys2Proof.Proofs
end

section
/-! PROOFS. The PPU's tick case by case, and its position and VBL after a whole frame of ticks. -/

namespace Sys2Proof.Machine

/-- The PPU counters are in their ranges (R211, R212). -/
def State.CountersInRange (s : State) : Prop := s.cycle.toNat ≤ 340 ∧ s.scanline.toNat ≤ 261

/-- The number of ticks since the PPU was last at cycle 0 of scanline 0. -/
def State.position (s : State) : Nat := 341 * s.scanline.toNat + s.cycle.toNat

/-- VBL is 1 exactly on the blank scanlines (R213, R214). -/
def State.VblFollowsLine (s : State) : Prop := s.vbl = decide (241 ≤ s.scanline.toNat)

theorem State.position_lt {s : State} (h : s.CountersInRange) : s.position < 341 * 262 := by
  obtain ⟨hcycle, hline⟩ := h
  unfold State.position
  omega

/-- A tick moves the PPU one position on, modulo a frame (R211, R212). -/
theorem State.tick_position {s : State} (h : s.CountersInRange) :
    s.tick.CountersInRange ∧ s.tick.position = (s.position + 1) % (341 * 262) := by
  obtain ⟨hcycle, hline⟩ := h
  obtain ⟨hc, hl, -⟩ := State.tick_toNat s hcycle hline
  unfold State.CountersInRange State.position
  rw [hc, hl]
  split <;> omega

theorem State.ticks_position {s : State} (h : s.CountersInRange) (n : Nat) :
    (State.ticks n s).CountersInRange ∧ (State.ticks n s).position = (s.position + n) % (341 * 262) := by
  induction n with
  | zero => exact ⟨h, (Nat.mod_eq_of_lt (State.position_lt h)).symm⟩
  | succ n ih =>
    obtain ⟨hrange, hpos⟩ := ih
    obtain ⟨hrange', hpos'⟩ := State.tick_position hrange
    rw [State.ticks_succ]
    exact ⟨hrange', by rw [hpos', hpos, Nat.mod_add_mod, Nat.add_assoc]⟩

/-- A position has one cycle and one scanline. -/
theorem State.counters_eq_of_position {s t : State} (hs : s.CountersInRange) (ht : t.CountersInRange)
    (h : t.position = s.position) : t.cycle = s.cycle ∧ t.scanline = s.scanline := by
  unfold State.CountersInRange at hs ht
  unfold State.position at h
  exact ⟨BitVec.eq_of_toNat_eq (by omega), BitVec.eq_of_toNat_eq (by omega)⟩

/-- After a tick VBL follows the scanline if it did before, or if the tick wraps the frame, whatever VBL was before. -/
theorem State.tick_vblFollowsLine {s : State} (h : s.CountersInRange)
    (hv : s.VblFollowsLine ∨ s.position + 1 = 341 * 262) : s.tick.VblFollowsLine := by
  unfold State.VblFollowsLine State.position State.vbl State.CountersInRange at *
  rcases State.tick_cases s with ⟨hc, e⟩ | ⟨-, -, e⟩ | ⟨-, -, e⟩ | ⟨-, hset, hwrap, e⟩ <;> rw [e]
  case inl =>
    have : s.cycle.toNat ≠ 340 := fun hn => hc (BitVec.eq_of_toNat_eq hn)
    exact hv.resolve_right (by omega)
  case inr.inl => exact setVbl_vbl _
  case inr.inr.inl => exact clearVbl_vbl _
  case inr.inr.inr =>
    have hset : s.scanline.toNat ≠ 240 := fun hn => hset (BitVec.eq_of_toNat_eq hn)
    have hwrap : s.scanline.toNat ≠ 261 := fun hn => hwrap (BitVec.eq_of_toNat_eq hn)
    have hnext : (s.scanline + 1).toNat = s.scanline.toNat + 1 := by bv_omega
    have hsame : 241 ≤ (s.scanline + 1).toNat ↔ 241 ≤ s.scanline.toNat := by omega
    exact (hv.resolve_right (by omega)).trans (decide_eq_decide.mpr hsame.symm)

/-- Once ticks have taken the PPU past the end of a frame, VBL follows the scanline. -/
theorem State.ticks_vblFollowsLine {s : State} (h : s.CountersInRange) {n : Nat} (hn : 341 * 262 ≤ s.position + n) :
    (State.ticks n s).VblFollowsLine := by
  induction n with
  | zero => exact absurd (State.position_lt h) (Nat.not_lt.mpr hn)
  | succ n ih =>
    obtain ⟨hrange, hpos⟩ := State.ticks_position h n
    rw [State.ticks_succ]
    refine State.tick_vblFollowsLine hrange ?_
    by_cases hlt : 341 * 262 ≤ s.position + n
    · exact .inl (ih hlt)
    · exact .inr (by omega)

end Sys2Proof.Machine

namespace Sys2Proof.Proofs

open Sys2Proof.Machine

/-- Settles O41: the four cases of a tick exclude each other, and an action has a next state only while the run goes on. -/
theorem tickAdvancesOneCycle : Obligations.TickAdvancesOneCycle := by
  refine ⟨fun s => ?_, fun sched s t hr ht => hr (stepWith_cases ht).1⟩
  rcases State.tick_cases s with ⟨hc, e⟩ | ⟨hc, hl, e⟩ | ⟨hc, hl, e⟩ | ⟨hc, hset, hwrap, e⟩
  · exact ⟨fun _ => e, fun h => absurd h hc, fun h => absurd h hc, fun h => absurd h hc⟩
  · exact ⟨fun h => absurd hc h, fun _ _ => e, fun _ h => absurd (hl.symm.trans h) (by decide),
      fun _ h => absurd hl h⟩
  · exact ⟨fun h => absurd hc h, fun _ h => absurd (hl.symm.trans h) (by decide), fun _ _ => e,
      fun _ _ h => absurd hl h⟩
  · exact ⟨fun h => absurd hc h, fun _ h => absurd h hset, fun _ h => absurd h hwrap, fun _ _ _ => e⟩

/-- Settles O43: a frame of ticks comes back to its position, and passes the wrap, from which VBL follows the scanline. -/
theorem frameIs89342Ticks : Obligations.FrameIs89342Ticks := by
  rintro s _ rfl hc hl
  have h : s.CountersInRange := ⟨hc, hl⟩
  obtain ⟨hrange, hpos⟩ := State.ticks_position h (341 * 262)
  rw [Nat.add_mod_right, Nat.mod_eq_of_lt (State.position_lt h)] at hpos
  obtain ⟨hcycle, hline⟩ := State.counters_eq_of_position h hrange hpos
  refine ⟨hcycle, hline, ?_⟩
  rw [← hline]
  exact State.ticks_vblFollowsLine h (Nat.le_add_left _ _)

end Sys2Proof.Proofs
end

section
/-! PROOFS. A CPU step that reads 0x2002 leaves VBL clear, and no other action changes VBL but the two edges of a tick. -/

namespace Sys2Proof.Machine

/-- A read never sets VBL. -/
theorem State.touch_vbl {s : State} (h : s.vbl = false) (a : Addr) : (s.touch a).vbl = false := by
  unfold State.touch
  split
  · exact clearVbl_vbl _
  · exact h

/-- A read of `PPUSTATUS_ADDR` leaves VBL clear (R52). -/
theorem State.touch_status_vbl (s : State) {a : Addr} (h : a = Config.ppuStatusAddr) : (s.touch a).vbl = false := by
  rw [h, State.touch_status]
  exact clearVbl_vbl _

theorem inInstruction_eq_true {pc a : Addr} {len : Nat} :
    inInstruction pc len a = true ↔ ∃ k < len, pc + BitVec.ofNat 16 k = a := by
  simp [inInstruction]

/-- A fetch of an instruction with a byte at `PPUSTATUS_ADDR` leaves VBL clear (R54). -/
theorem State.fetch_vbl {s : State} {i : Instr} (hi : s.fetch.1 = .instr i)
    (h : inInstruction s.pc i.length Config.ppuStatusAddr = true) : s.fetch.2.vbl = false := by
  cases hd : decodeOpcode (s.peek s.pc) with
  | none =>
    rw [State.fetch_unsupported s hd] at hi
    cases hi
  | some row =>
    obtain ⟨j, hj, hlen⟩ := State.fetch_length hd
    obtain rfl : i = j := Fetched.instr.inj (hi.symm.trans hj)
    obtain ⟨k, hk, hbyte⟩ := inInstruction_eq_true.mp h
    have hcount : row.mode.operandCount ≤ 2 := by cases row.mode <;> decide
    rw [hlen, Mode.length] at hk
    rw [State.fetch_row s row hd]
    generalize row.mode.operandCount = n at hcount hk ⊢
    have clears (t : State) : (t.touch (s.pc + BitVec.ofNat 16 k)).vbl = false := State.touch_status_vbl t hbyte
    have first (hk : k = 0) : (s.touch s.pc).vbl = false := by simpa [hk] using clears s
    match n, k with
    | 0, 0 => exact first rfl
    | 1, 0 => exact State.touch_vbl (first rfl) _
    | 1, 1 => exact clears _
    | 2, 0 => exact State.touch_vbl (State.touch_vbl (first rfl) _) _
    | 2, 1 => exact State.touch_vbl (clears _) _
    | 2, 2 => exact clears _

theorem cpuStep_of_fetch {s : State} {i : Instr} (hi : s.fetch.1 = .instr i) : cpuStep s = exec i s.fetch.2 := by
  rcases cpuStep_cases s with ⟨j, hj, hstep⟩ | ⟨op, hop, -⟩
  · obtain rfl : i = j := Fetched.instr.inj (hi.symm.trans hj)
    exact hstep
  · exact nomatch hi.symm.trans hop

/-- An instruction's data address does not depend on PPUSTATUS, so not on the fetch before it. -/
theorem loadAddress_fetch (i : Instr) (s : State) : loadAddress i s.fetch.2 = loadAddress i s := by
  rw [State.fetch_state]
  rfl

/-- A CPU step that reads `PPUSTATUS_ADDR` leaves VBL clear, by its fetch or by its data read (R52, R261). -/
theorem cpuStep_clears_vbl {s u : State} (h : s.cpuReads Config.ppuStatusAddr = true) (hu : cpuStep s = .next u) :
    u.vbl = false := by
  cases hd : decodeOpcode (s.peek s.pc) with
  | none =>
    obtain rfl := Host.Outcome.next.inj ((cpuStep_unsupported hd).symm.trans hu)
    have hpc : s.pc = Config.ppuStatusAddr := by
      simpa [State.cpuReads, State.fetch_unsupported s hd] using h
    exact State.touch_status_vbl s hpc
  | some row =>
    obtain ⟨i, hi, -⟩ := State.fetch_length hd
    obtain ⟨t, ht, hstatus⟩ := exec_status i s.fetch.2
    obtain rfl : t = u := Host.Outcome.next.inj (ht.symm.trans ((cpuStep_of_fetch hi).symm.trans hu))
    rw [State.vbl, hstatus, loadAddress_fetch]
    have hreads : inInstruction s.pc i.length Config.ppuStatusAddr = true ∨
        loadAddress i s = some Config.ppuStatusAddr := by
      simpa [State.cpuReads, hi] using h
    split
    · exact clearVbl_vbl _
    · next hload => exact State.fetch_vbl hi (hreads.resolve_right hload)

/-- Everything a CPU step does to VBL: a step that reads `PPUSTATUS_ADDR` leaves it clear, any other keeps it. -/
theorem cpuStep_vbl {s u : State} (hu : cpuStep s = .next u) :
    u.vbl = if s.cpuReads Config.ppuStatusAddr = true then false else s.vbl := by
  split
  · next h => exact cpuStep_clears_vbl h hu
  · next h =>
    have hkeep : u.ppuStatus = s.ppuStatus := cpuStep_keeps_status (Bool.eq_false_of_not_eq_true h) hu
    rw [State.vbl, hkeep, State.vbl]

/-- A tick sets VBL only on entering scanline 241, and clears it only on the frame wrap (R213, R214). -/
theorem State.tick_vbl_edges (s : State) :
    (s.vbl = false → s.tick.vbl = true → s.cycle = 340 ∧ s.scanline = 240) ∧
    (s.vbl = true → s.tick.vbl = false → s.cycle = 340 ∧ s.scanline = 261) := by
  rcases State.tick_cases s with ⟨-, e⟩ | ⟨hc, hl, e⟩ | ⟨hc, hl, e⟩ | ⟨-, -, -, e⟩ <;> rw [e]
  case inr.inl =>
    exact ⟨fun _ _ => ⟨hc, hl⟩, fun _ h => absurd (setVbl_vbl _) (ne_true_of_eq_false h)⟩
  case inr.inr.inl =>
    exact ⟨fun _ h => absurd h (ne_true_of_eq_false (clearVbl_vbl _)), fun _ _ => ⟨hc, hl⟩⟩
  case inl | inr.inr.inr =>
    exact ⟨fun h h' => absurd h' (ne_true_of_eq_false h),
      fun h h' => absurd h (ne_true_of_eq_false h')⟩

end Sys2Proof.Machine

namespace Sys2Proof.Proofs

open Sys2Proof.Machine

/-- Settles O44: what a tick, the end by the budget and a CPU step each do to VBL. -/
theorem vblChangesOnlyAtItsEdgesAndReads : Obligations.VblChangesOnlyAtItsEdgesAndReads := by
  intro sched s t h
  obtain ⟨-, ⟨n, hn, rfl⟩ | ⟨-, hb, rfl⟩ | ⟨hn, hb, u, hu, rfl⟩⟩ := stepWith_cases h
  case inl =>
    obtain ⟨hset, hclear⟩ := State.tick_vbl_edges s
    have hdue : 0 < s.ticksDue := hn ▸ Nat.succ_pos n
    exact ⟨fun h h' => ⟨hdue, hset h h'⟩, fun h h' => .inl ⟨hdue, hclear h h'⟩, fun h0 => absurd h0 hdue.ne'⟩
  case inr.inl =>
    have hsame : (s.endRun .budgetExhausted).vbl = s.vbl := rfl
    rw [hsame]
    exact ⟨fun h h' => absurd h' (ne_true_of_eq_false h),
      fun h h' => absurd h (ne_true_of_eq_false h'), fun _ hne => absurd hb hne⟩
  case inr.inr =>
    have hvbl : (u.handOver sched).vbl = if s.cpuReads 0x2002 = true then false else s.vbl := by
      rw [State.vbl, State.handOver_ppuStatus]
      exact cpuStep_vbl hu
    rw [hvbl]
    split
    · next hr => exact ⟨fun _ h => absurd h Bool.false_ne_true, fun _ _ => .inr ⟨hn, hb, hr⟩, fun _ _ _ => rfl⟩
    · next hr =>
      exact ⟨fun h h' => absurd h' (ne_true_of_eq_false h),
        fun h h' => absurd h (ne_true_of_eq_false h'), fun _ _ h => absurd h hr⟩

end Sys2Proof.Proofs
end

section
/-! PROOFS. What a run does: the due ticks one by one, then the CPU's turn, until the budget or the code ends it. -/

namespace Sys2Proof.Machine

/-- Ticks write the counters and PPUSTATUS only. -/
theorem State.ticks_eq (n : Nat) (s : State) : State.ticks n s =
    { s with
      ppuStatus := (State.ticks n s).ppuStatus, cycle := (State.ticks n s).cycle,
      scanline := (State.ticks n s).scanline } := by
  induction n with
  | zero => rfl
  | succ n ih => rw [State.ticks_succ, State.tick_eq, ih]

/-- A run of the machine behind the interface, one action more. -/
theorem core_run_succ {s t : State} (n : Nat) (h : stepWith Config.ticksAfterStep s = .next t) :
    Sys2Proof.core.run (n + 1) s = Sys2Proof.core.run n t :=
  run_succ Sys2Proof.core n s t h

/-- A run of the machine behind the interface, `n` actions more. -/
theorem core_run_add {m : Nat} {s t : State} (n : Nat) (h : Sys2Proof.core.run m s = .next t) :
    Sys2Proof.core.run (m + n) s = Sys2Proof.core.run n t :=
  run_add Sys2Proof.core m n s t h

/-- A running machine with `n` ticks due takes them in `n` steps. -/
theorem run_due {n : Nat} {s : State} (hr : s.runState = .running) (hn : s.ticksDue = n) :
    Sys2Proof.core.run n s = .next { State.ticks n s with ticksDue := 0 } := by
  induction n generalizing s with
  | zero =>
    have hs : { s with ticksDue := 0 } = s := by rw [← hn]
    exact congrArg Host.Outcome.next hs.symm
  | succ n ih =>
    have hr' : s.tick.runState = .running := (State.tick_runState s).trans hr
    calc Sys2Proof.core.run (n + 1) s
      _ = Sys2Proof.core.run n { s.tick with ticksDue := n } := core_run_succ n (stepWith_tick _ s n hr hn)
      _ = .next { State.ticks n { s.tick with ticksDue := n } with ticksDue := 0 } := ih hr' rfl
      _ = .next { State.ticks (n + 1) s with ticksDue := 0 } := by rw [State.ticks_withDue]; rfl

/-- An action with no tick due and the budget not used up is a CPU step. -/
theorem stepWith_cpuStep {sched : Schedule} {s t : State} (hn : s.ticksDue = 0) (hb : s.steps ≠ s.stepBudget)
    (ht : stepWith sched s = .next t) :
    s.runState = .running ∧ ∃ u, cpuStep s = .next u ∧ t = u.handOver sched := by
  obtain ⟨hr, ⟨n, hdue, -⟩ | ⟨-, hexhausted, -⟩ | ⟨-, -, hcpu⟩⟩ := stepWith_cases ht
  · exact absurd (hn.symm.trans hdue) (Nat.succ_ne_zero n).symm
  · exact absurd hexhausted hb
  · exact ⟨hr, hcpu⟩

/-- A CPU step never ends the run by the budget: its ends are HLT and an opcode that is not admitted (R254). -/
theorem cpuStep_not_budgetExhausted {s u : State} (hr : s.runState = .running) (hu : cpuStep s = .next u) :
    u.runState ≠ .budgetExhausted := by
  have hf : s.fetch.2.runState = .running := by rw [State.fetch_state]; exact hr
  rcases cpuStep_cases s with ⟨i, -, hi⟩ | ⟨op, -, hop⟩
  · obtain ⟨t, ht, hrun⟩ := exec_run i s.fetch.2
    obtain rfl : t = u := Host.Outcome.next.inj (ht.symm.trans (hi.symm.trans hu))
    rcases hrun with rfl | ⟨hrun, -⟩
    · exact nofun
    · rw [hrun, hf]
      exact nofun
  · obtain rfl := Host.Outcome.next.inj (hop.symm.trans hu)
    exact nofun

/-- The CPU's turn ends the run or counts one step within the budget, and the run goes on. -/
theorem stepWith_progress (sched : Schedule) {s : State} (hr : s.runState = .running) (hn : s.ticksDue = 0)
    (hb : s.steps ≤ s.stepBudget) : ∃ t, stepWith sched s = .next t ∧ t.stepBudget = s.stepBudget ∧
      t.steps ≤ s.stepBudget ∧ (t.runState = .running → t.steps = s.steps + 1) := by
  rw [stepWith_cpu sched s hr hn]
  rcases Nat.eq_or_lt_of_le hb with heq | hlt
  · exact ⟨_, cpuTurn_budget sched s heq, rfl, hb, nofun⟩
  · obtain ⟨u, hu, hbudget, hrun⟩ := cpuStep_progress s hr
    refine ⟨u.handOver sched, by rw [cpuTurn_step sched s hlt.ne, hu]; rfl, ?_⟩
    rw [State.handOver_steps, State.handOver_stepBudget, State.handOver_runState]
    rcases hrun with ⟨-, hsteps⟩ | ⟨hended, hsteps⟩
    · exact ⟨hbudget, by omega, fun _ => hsteps⟩
    · exact ⟨hbudget, by omega, fun h => absurd h hended⟩

/-- A running machine within its budget comes to its next turn of the CPU and takes it. -/
theorem run_turn {s : State} (hr : s.runState = .running) (hb : s.steps ≤ s.stepBudget) :
    ∃ (k : Nat) (t : State), Sys2Proof.core.run k s = .next t ∧ t.stepBudget = s.stepBudget ∧
      t.steps ≤ s.stepBudget ∧ (t.runState = .running → t.steps = s.steps + 1) := by
  obtain ⟨hr', hsteps, hbudget⟩ := State.ticks_keeps s.ticksDue s
  obtain ⟨t, ht, hprogress⟩ := stepWith_progress Config.ticksAfterStep
    (s := { State.ticks s.ticksDue s with ticksDue := 0 }) (hr'.trans hr) rfl (by simpa [hsteps, hbudget] using hb)
  simp only [hsteps, hbudget] at hprogress
  exact ⟨s.ticksDue + 1, t, (core_run_add 1 (run_due hr rfl)).trans (core_run_succ 0 ht), hprogress⟩

/-- A running machine within its budget ends: the steps its budget still allows get fewer at each turn of the CPU. -/
theorem run_ends {s : State} (hr : s.runState = .running) (hb : s.steps ≤ s.stepBudget) :
    ∃ (k : Nat) (t : State), Sys2Proof.core.run k s = .next t ∧ t.runState ≠ .running ∧ t.steps ≤ s.stepBudget := by
  obtain ⟨k, t, hrun, hbudget, hsteps, hcount⟩ := run_turn hr hb
  rw [← hbudget] at hsteps ⊢
  by_cases ht : t.runState = .running
  · have := hcount ht
    obtain ⟨j, u, hj, hended⟩ := run_ends ht hsteps
    exact ⟨k + j, u, (core_run_add j hrun).trans hj, hended⟩
  · exact ⟨k, t, hrun, ht, hsteps⟩
termination_by s.stepBudget - s.steps
decreasing_by omega

end Sys2Proof.Machine

namespace Sys2Proof.Proofs

open Sys2Proof.Machine

/-- Settles O47: a due tick is the next action, and by induction on what is due the run is those ticks. -/
theorem dueTicksRunOut : Obligations.DueTicksRunOut := by
  refine ⟨fun sched s n hr hn => stepWith_tick sched s n hr hn, fun s hr => ⟨run_due hr rfl, ?_⟩⟩
  rw [State.ticks_eq]
  exact ⟨rfl, rfl, rfl, rfl, rfl, rfl, rfl⟩

/-- Settles O35: the CPU's turn checks the budget first, and the step it takes instead never ends the run by it. -/
theorem budgetIsCheckedBeforeTheFetch : Obligations.BudgetIsCheckedBeforeTheFetch := by
  refine fun sched s hr hn => ⟨fun hb => ?exhausted, fun hb t ht => ?within⟩
  case exhausted =>
    rw [stepWith_cpu sched s hr hn, cpuTurn_budget sched s hb]
    rfl
  case within =>
    obtain ⟨-, u, hu, rfl⟩ := stepWith_cpuStep hn hb ht
    rw [State.handOver_runState]
    exact cpuStep_not_budgetExhausted hr hu

/-- Settles O49: the action is a CPU step that counts one, and its ticks are the schedule's for that count. -/
theorem referenceScheduleOwesThreeTicks : Obligations.ReferenceScheduleOwesThreeTicks := by
  intro s t hn hb ht hrunning
  obtain ⟨hr, u, hu, rfl⟩ := stepWith_cpuStep hn hb ht
  rw [State.handOver_runState] at hrunning
  obtain ⟨v, hv, -, hrun⟩ := cpuStep_progress s hr
  obtain rfl : v = u := Host.Outcome.next.inj (hv.symm.trans hu)
  rcases hrun with ⟨-, hsteps⟩ | ⟨hended, -⟩
  · rw [State.handOver_running v _ hrunning]
    exact ⟨(congrArg referenceSchedule hsteps).trans rfl, hsteps⟩
  · exact absurd hrunning hended

/-- Settles O48: each turn of the CPU ends the run or uses up one step of the budget. -/
theorem everyRunEndsWithinItsBudget : Obligations.EveryRunEndsWithinItsBudget :=
  fun _ hr hb => run_ends hr hb

end Sys2Proof.Proofs
end

section
/-! PROOFS. The cartridge loader: the bytes it reads from the file, the cells it fills, and when it fails. -/

namespace Sys2Proof.Machine

/-! ### The file -/

theorem fileByte_of_getElem? {file : List Byte} {k : Nat} {b : Byte} (h : file[k]? = some b) : fileByte file k = b := by
  rw [fileByte, h]
  rfl

/-- A read of at least one byte fails exactly when the file ends before it does (R244, R248). -/
theorem readFile_eq_none_iff {file : List Byte} {offset n : Nat} (hn : 0 < n) :
    readFile file offset n = none ↔ file.length < offset + n := by
  simp only [readFile, List.length_take, List.length_drop, ite_eq_right_iff, reduceCtorEq, imp_false]
  omega

/-- The bytes a read answers are the file's, from its offset on. -/
theorem readFile_some {file bytes : List Byte} {offset n : Nat} (h : readFile file offset n = some bytes) :
    bytes.length = n ∧ ∀ k < n, bytes[k]? = file[offset + k]? := by
  obtain ⟨hlen, rfl⟩ : ((file.drop offset).take n).length = n ∧ (file.drop offset).take n = bytes := by
    simpa [readFile] using h
  refine ⟨hlen, fun k hk => ?_⟩
  rw [List.getElem?_take_of_lt hk, List.getElem?_drop]

/-! ### The cells -/

/-- The cells below an image's base stay as they are. -/
theorem Memory.read_install_below {m : Memory} {bytes : List Byte} {base : Nat} (h : base + bytes.length ≤ 65536)
    {a : Addr} (ha : a.toNat < base) : (m.install base bytes).read a = m.read a := by
  rw [Memory.read_install _ _ _ h, if_neg (Nat.not_le.mpr ha)]

/-- An image that was read from the file fills its cells with the file's bytes (R245). -/
theorem Memory.read_install_file {m : Memory} {file bytes : List Byte} {base offset n k : Nat}
    (hread : readFile file offset n = some bytes) (hbase : base + n ≤ 65536) (hk : k < n) :
    (m.install base bytes).read (BitVec.ofNat 16 (base + k)) = fileByte file (offset + k) := by
  obtain ⟨hlen, hbytes⟩ := readFile_some hread
  have ha : (BitVec.ofNat 16 (base + k)).toNat = base + k := by
    rw [BitVec.toNat_ofNat]
    omega
  have hbyte : bytes[k]? = some bytes[k] := List.getElem?_eq_getElem (hlen.symm ▸ hk)
  rw [Memory.read_install _ _ _ (hlen.symm ▸ hbase), ha, if_pos (Nat.le_add_right _ _), Nat.add_sub_cancel_left, hbyte,
    fileByte_of_getElem? ((hbytes k hk).symm.trans hbyte)]
  rfl

/-! ### The program -/

theorem loadProgram_one {file : List Byte} (h : prgUnits file = 1) (m : Memory) :
    loadProgram file m = (readFile file (prgOffset file) 16384).map
      (fun prg => (m.install 0x8000 prg).install 0xC000 prg) := by
  simp only [loadProgram, h]
  rfl

theorem loadProgram_two {file : List Byte} (h : prgUnits file = 2) (m : Memory) :
    loadProgram file m = (readFile file (prgOffset file) 32768).map (fun prg => m.install 0x8000 prg) := by
  simp only [loadProgram, h]
  rfl

theorem loadProgram_other {file : List Byte} (h1 : prgUnits file ≠ 1) (h2 : prgUnits file ≠ 2) (m : Memory) :
    loadProgram file m = none := by
  unfold loadProgram
  split
  · next h => exact absurd h h1
  · next h => exact absurd h h2
  · rfl

/-- The program load fails exactly on a size of neither one nor two units and on a short file (R244). -/
theorem loadProgram_eq_none_iff (file : List Byte) (m : Memory) : loadProgram file m = none ↔
    (prgUnits file ≠ 1 ∧ prgUnits file ≠ 2) ∨ file.length < prgOffset file + 16384 * prgUnits file := by
  by_cases h1 : prgUnits file = 1
  · rw [loadProgram_one h1, Option.map_eq_none_iff, readFile_eq_none_iff (by decide), h1]
    simp
  · by_cases h2 : prgUnits file = 2
    · rw [loadProgram_two h2, Option.map_eq_none_iff, readFile_eq_none_iff (by decide), h2]
      simp
    · exact iff_of_true (loadProgram_other h1 h2 m) (.inl ⟨h1, h2⟩)

/-- A program load that succeeds read an image of one unit, installed twice, or of two units, installed once (R246,
R247). -/
theorem loadProgram_cases {file : List Byte} {m m' : Memory} (h : loadProgram file m = some m') :
    (prgUnits file = 1 ∧ ∃ prg, readFile file (prgOffset file) 16384 = some prg ∧
      m' = (m.install 0x8000 prg).install 0xC000 prg) ∨
    (prgUnits file = 2 ∧ ∃ prg, readFile file (prgOffset file) 32768 = some prg ∧ m' = m.install 0x8000 prg) := by
  by_cases h1 : prgUnits file = 1
  · obtain ⟨prg, hprg, he⟩ := Option.map_eq_some_iff.mp ((loadProgram_one h1 m).symm.trans h)
    exact .inl ⟨h1, prg, hprg, he.symm⟩
  · by_cases h2 : prgUnits file = 2
    · obtain ⟨prg, hprg, he⟩ := Option.map_eq_some_iff.mp ((loadProgram_two h2 m).symm.trans h)
      exact .inr ⟨h2, prg, hprg, he.symm⟩
    · exact nomatch (loadProgram_other h1 h2 m).symm.trans h

/-- A file long enough for its one or two units is loaded. -/
theorem loadProgram_isSome {file : List Byte} (h : prgUnits file = 1 ∨ prgUnits file = 2)
    (hlen : prgOffset file + 16384 * prgUnits file ≤ file.length) (m : Memory) : ∃ m', loadProgram file m = some m' := by
  refine Option.ne_none_iff_exists'.mp fun hnone => ?_
  rcases (loadProgram_eq_none_iff file m).mp hnone with ⟨h1, h2⟩ | hshort
  · exact h.elim h1 h2
  · omega

/-- The cells of a two-unit program (R246). -/
theorem loadProgram_two_read {file : List Byte} {m m' : Memory} (h2 : prgUnits file = 2)
    (h : loadProgram file m = some m') {i : Nat} (hi : i < 32768) :
    m'.read (BitVec.ofNat 16 (0x8000 + i)) = fileByte file (prgOffset file + i) := by
  rcases loadProgram_cases h with ⟨h1, -⟩ | ⟨-, prg, hprg, rfl⟩
  · exact nomatch h1.symm.trans h2
  · exact Memory.read_install_file hprg (by decide) hi

/-- The cells of a one-unit program (R247): the second copy leaves the first. -/
theorem loadProgram_one_read {file : List Byte} {m m' : Memory} (h1 : prgUnits file = 1)
    (h : loadProgram file m = some m') {i : Nat} (hi : i < 16384) :
    m'.read (BitVec.ofNat 16 (0x8000 + i)) = fileByte file (prgOffset file + i) ∧
      m'.read (BitVec.ofNat 16 (0xC000 + i)) = fileByte file (prgOffset file + i) := by
  rcases loadProgram_cases h with ⟨-, prg, hprg, rfl⟩ | ⟨h2, -⟩
  · refine ⟨?_, Memory.read_install_file hprg (by decide) hi⟩
    have hlen := (readFile_some hprg).1
    have hlow : (BitVec.ofNat 16 (0x8000 + i)).toNat < 0xC000 := by
      rw [BitVec.toNat_ofNat]
      omega
    rw [Memory.read_install_below (by omega) hlow]
    exact Memory.read_install_file hprg (by decide) hi
  · exact nomatch h1.symm.trans h2

/-- A program load leaves every cell below 0x8000 (R245). -/
theorem loadProgram_read_below {file : List Byte} {m m' : Memory} (h : loadProgram file m = some m') {a : Addr}
    (ha : a.toNat < 0x8000) : m'.read a = m.read a := by
  rcases loadProgram_cases h with ⟨-, prg, hprg, rfl⟩ | ⟨-, prg, hprg, rfl⟩
  · have hlen := (readFile_some hprg).1
    rw [Memory.read_install_below (by omega) (by omega), Memory.read_install_below (by omega) ha]
  · have hlen := (readFile_some hprg).1
    rw [Memory.read_install_below (by omega) ha]

/-- A program load keeps the canonical form. -/
theorem loadProgram_wf {file : List Byte} {m m' : Memory} (hm : m.wf = true) (h : loadProgram file m = some m') :
    m'.wf = true := by
  rcases loadProgram_cases h with ⟨-, prg, -, rfl⟩ | ⟨-, prg, -, rfl⟩
  · exact Memory.wf_install _ _ _ (Memory.wf_install _ _ _ hm)
  · exact Memory.wf_install _ _ _ hm

/-! ### The pattern data -/

theorem loadPatternData_none_asked {file : List Byte} (h : chrUnits file = 0) :
    loadPatternData file = some (List.replicate 8192 0) := if_pos h

theorem loadPatternData_asked {file : List Byte} (h : chrUnits file ≠ 0) :
    loadPatternData file = readFile file (prgOffset file + 16384 * prgUnits file) (8192 * chrUnits file) := if_neg h

end Sys2Proof.Machine

namespace Sys2Proof.Proofs

open Sys2Proof.Machine

/-- Settles O53: the fields are bytes of the file, and the load fails as the size and the read of its bytes do. -/
theorem programLoadFailsExactlyWhenListed : Obligations.ProgramLoadFailsExactlyWhenListed := by
  refine fun file => ⟨fun k b h => fileByte_of_getElem? h, fun b h => ?prg, fun b h => ?chr, fun b h => ?offset,
    loadProgram_eq_none_iff file⟩
  case prg => rw [prgUnits, fileByte_of_getElem? h]
  case chr => rw [chrUnits, fileByte_of_getElem? h]
  case offset =>
    rw [prgOffset, trainerPresent, fileByte_of_getElem? h]
    split <;> rfl

/-- Settles O54: a long enough file is loaded, and its image is installed at 0x8000. -/
theorem twoUnitImageFillsTheWindow : Obligations.TwoUnitImageFillsTheWindow := by
  intro file m h2 hlen
  obtain ⟨m', h⟩ := loadProgram_isSome (.inr h2) (by omega) m
  exact ⟨m', h, fun i hi => loadProgram_two_read h2 h hi, fun a ha => loadProgram_read_below h ha⟩

/-- Settles O55: a long enough file is loaded, and its image is installed at 0x8000 and at 0xC000. -/
theorem oneUnitImageIsMirrored : Obligations.OneUnitImageIsMirrored := by
  intro file m h1 hlen
  obtain ⟨m', h⟩ := loadProgram_isSome (.inl h1) (by omega) m
  exact ⟨m', h, fun i hi => loadProgram_one_read h1 h hi, fun a ha => loadProgram_read_below h ha⟩

/-- Settles O58: the pattern data is a zero-filled unit, or a read of the file right after the program. -/
theorem patternDataFollowsTheProgram : Obligations.PatternDataFollowsTheProgram := by
  rintro file _ rfl
  refine ⟨loadPatternData_none_asked, fun h => ?fails, fun pattern h hp => ?answers⟩
  case fails =>
    rw [loadPatternData_asked h]
    exact readFile_eq_none_iff (by omega)
  case answers =>
    rw [loadPatternData_asked h] at hp
    exact readFile_some hp

end Sys2Proof.Proofs
end

section
/-! PROOFS. How a run starts and what it yields: the resets, the launch stage by stage, and the terminations. -/

namespace Sys2Proof.Machine

/-! ### Terminations -/

theorem State.termination_eq_none_iff (s : State) : s.termination = none ↔ s.runState = .running := by
  unfold State.termination
  cases s.runState <;> simp

theorem State.termination_halted {s : State} {addr : Addr} (h : s.runState = .halted addr) :
    s.termination = some (.halted addr) := by
  simp only [State.termination, h]

theorem State.termination_unsupported {s : State} {op : Byte} {addr : Addr} (h : s.runState = .unsupported op addr) :
    s.termination = some (.unsupported op addr) := by
  simp only [State.termination, h]

theorem State.termination_budgetExhausted {s : State} (h : s.runState = .budgetExhausted) :
    s.termination = some (.budgetExhausted s.steps) := by
  simp only [State.termination, h]

/-! ### Reset -/

/-- Everything the two resets do, in any machine (R250, R251). -/
theorem State.ppuReset_cpuReset (s : State) : s.ppuReset.cpuReset = { s with
    a := 0x00, x := 0x00, y := 0x00, sp := 0xFD, p := 0x34,
    pc := joinBytes (s.mem.read 0xFFFD) (s.mem.read 0xFFFC),
    ppuStatus := 0x00, cycle := 0, scanline := 0, runState := .running, steps := 0 } := by
  unfold State.cpuReset
  rw [State.memRead16_resetVector]
  rfl

/-- The two resets establish the invariant over any canonical memory, as they do over the empty one. -/
theorem State.Inv.of_reset {s : State} (h : s.mem.wf = true) : s.ppuReset.cpuReset.Inv := by
  have h0 : State.reset.Inv := Proofs.invariantHoldsAtReset
  rw [State.ppuReset_cpuReset]
  exact {
    memory := h
    cycle := h0.cycle
    scanline := h0.scanline
    status := h0.status
    blank := h0.blank
    fixedFlags := h0.fixedFlags
    flagsApart := h0.flagsApart
    budget := Nat.zero_le _
    ended := trivial }

/-! ### The launch -/

theorem headerValid_iff {file : List Byte} :
    headerValid file = true ↔ 16 ≤ file.length ∧ file.take 4 = [0x4E, 0x45, 0x53, 0x1A] := by
  simp [headerValid]

section
variable {file : List Byte} {initMem : Memory} {budget : Nat} {sched : Schedule}

theorem launch_headerInvalid (h : ¬ headerValid file = true) :
    launch (some file) initMem budget sched = .failed .setupHeaderInvalid initMem := if_neg h

variable (hv : headerValid file = true)
include hv

theorem launch_programLoad (h : loadProgram file initMem = none) :
    launch (some file) initMem budget sched = .failed .setupProgramLoad initMem := by
  simp only [launch, hv, h, if_true]

theorem launch_patternLoad {m : Memory} (h : loadProgram file initMem = some m) (hp : loadPatternData file = none) :
    launch (some file) initMem budget sched = .failed .setupPatternLoad m := by
  simp only [launch, hv, h, hp, if_true]

theorem launch_ready {m : Memory} {pattern : List Byte} (h : loadProgram file initMem = some m)
    (hp : loadPatternData file = some pattern) :
    launch (some file) initMem budget sched = .ready (State.afterReset m budget (sched 0)) pattern := by
  simp only [launch, hv, h, hp, if_true]

end

/-- A launch is ready only when every stage has succeeded, with the reset over the loaded memory. -/
theorem eq_afterReset_of_launch_ready {file : List Byte} {initMem : Memory} {budget : Nat} {sched : Schedule}
    {s : State} {pattern : List Byte} (h : launch (some file) initMem budget sched = .ready s pattern) :
    ∃ m, loadProgram file initMem = some m ∧ s = State.afterReset m budget (sched 0) := by
  by_cases hv : headerValid file = true
  · cases hm : loadProgram file initMem with
    | none => exact nomatch (launch_programLoad hv hm).symm.trans h
    | some m =>
      cases hp : loadPatternData file with
      | none => exact nomatch (launch_patternLoad hv hm hp).symm.trans h
      | some data => exact ⟨m, rfl, (Launched.ready.inj ((launch_ready hv hm hp).symm.trans h)).1.symm⟩
  · exact nomatch (launch_headerInvalid hv).symm.trans h

end Sys2Proof.Machine

namespace Sys2Proof.Proofs

open Sys2Proof.Machine

/-- Settles O50: each final run state has its own termination, and that its own code. -/
theorem endedRunYieldsItsTermination : Obligations.EndedRunYieldsItsTermination := by
  refine fun s => ⟨State.termination_eq_none_iff s, fun addr => State.termination_halted,
    fun op addr => State.termination_unsupported, State.termination_budgetExhausted, fun addr h => ?halted,
    fun op addr h => ?unsupported, fun h => ?exhausted⟩
  case halted => rw [State.termination_halted h]; rfl
  case unsupported => rw [State.termination_unsupported h]; rfl
  case exhausted => rw [State.termination_budgetExhausted h]; rfl

/-- Settles O51: the reset vector is read with no effect, so the resets write the listed fields and no other. -/
theorem resetSetsTheListedValues : Obligations.ResetSetsTheListedValues :=
  State.ppuReset_cpuReset

/-- Settles O56: the launch stage by stage, each with the earlier ones passed. -/
theorem setupFailuresComeInStageOrder : Obligations.SetupFailuresComeInStageOrder := by
  refine fun initMem budget sched => ⟨rfl, fun file => ⟨fun h => launch_headerInvalid fun hv => ?_, fun hlen hsig => ?_⟩,
    rfl, rfl, rfl, rfl⟩
  · obtain ⟨hlen, hsig⟩ := headerValid_iff.mp hv
    exact h.elim (Nat.not_lt.mpr hlen) fun hne => hne hsig
  · have hv := headerValid_iff.mpr ⟨hlen, hsig⟩
    exact ⟨launch_programLoad hv, fun m => launch_patternLoad hv, fun m pattern => launch_ready hv⟩

/-- Settles O57: a ready machine is the reset over the loaded memory, whose vector lies in the image's last cells. -/
theorem launchedMachineIsReadyAndInvariant : Obligations.LaunchedMachineIsReadyAndInvariant := by
  intro file initMem budget sched s pattern hwf h
  obtain ⟨m, hm, rfl⟩ := eq_afterReset_of_launch_ready h
  have hreset : State.afterReset m budget (sched 0) = _ := State.ppuReset_cpuReset _
  have hpc : (State.afterReset m budget (sched 0)).pc = joinBytes (m.read 0xFFFD) (m.read 0xFFFC) :=
    congrArg State.pc hreset
  refine ⟨State.Inv.of_reset (loadProgram_wf hwf hm), congrArg State.runState hreset, congrArg State.steps hreset,
    congrArg State.stepBudget hreset, congrArg State.ticksDue hreset, hm.trans (congrArg _ (congrArg State.mem hreset).symm),
    fun h1 => ?one, fun h2 => ?two⟩
  case one =>
    rw [hpc, ← (loadProgram_one_read h1 hm (i := 0x3FFD) (by decide)).2,
      ← (loadProgram_one_read h1 hm (i := 0x3FFC) (by decide)).2]
    rfl
  case two =>
    rw [hpc, ← loadProgram_two_read h2 hm (i := 0x7FFD) (by decide),
      ← loadProgram_two_read h2 hm (i := 0x7FFC) (by decide)]
    rfl

end Sys2Proof.Proofs
end
